-- ==== Sys2Proof/Word.lean ====
section
/-! DEFINITION. The widths of the AESMC: bytes, 32-bit registers and 16-bit window addresses (spec/00_scope.md R3, R7). -/

namespace Sys2Proof

/-- An 8-bit unsigned value (R7). -/
abbrev Byte := BitVec 8

/-- A finite sequence of bytes, first byte first (R7). -/
abbrev Bytes := List Byte

/-- A register, a command word or the data of a host access: 32 bits (R3, R20). -/
abbrev Word := BitVec 32

/-- A byte address of the 64 KiB host window (R3, R60). -/
abbrev Addr := BitVec 16

/-- A draw of the entropy source: 16 bytes, the first byte first (R105). -/
abbrev Draw := Vector Byte 16

end Sys2Proof
end

