-- ==== Sys2Proof/Config.lean ====
section
/-! DEFINITION. What an implementation fixes (spec/00_scope.md R3) and the values the spec leaves free (spec/93_implementation_defined.md). -/

namespace Sys2Proof

/-- The parameters of R3 that are plain data. The cipher, the fifth parameter, is `Sys2Proof.Machine.fips197`
(Machine/Aes.lean). A machine state carries its parameters in `State.cfg`, so that a statement about every state is a
statement about every configuration. DESIGN CHOICE (safe): log 1. -/
structure Params where
  /-- Size of IBUF in bytes (R3, R30). -/
  ibufSize : Nat
  /-- Size of OBUF in bytes (R3, R31). -/
  obufSize : Nat
  /-- Base64 decoding ignores bytes 0x0D and 0x0A (R3, R215). -/
  b64SkipCrlf : Bool
  /-- Base64 decoding rejects non-zero unused bits in the last quantum (R3, R215). -/
  b64Strict : Bool
  deriving DecidableEq, Repr

/-- The default of every parameter (R3): 4096, 8224 = 2·4096 + 32, 1 and 0. -/
def Params.default : Params :=
  { ibufSize := 4096, obufSize := 8224, b64SkipCrlf := true, b64Strict := false }

/-- The value of one byte lane of a host read that the spec leaves unspecified (U3, U4, U5: "any value, drawn fresh at
each read"): the number of the read, then the lane. No body, so nothing can be proved of a value. Safe: log 5. -/
opaque Config.freeByte : Nat → Nat → BitVec 8

/-- The bytes of the draw that `State.withFetchWord` lets the entropy source offer when none is on offer (R105: no law on
a draw). No body, so nothing can be proved of a value. Safe: log 12. -/
opaque Config.drawByte : Nat → BitVec 8

end Sys2Proof
end

