-- ==== Sys2Proof/Syntax.lean ====
section
/-! DEFINITION. The fourteen commands of the AESMC (spec/30_encoding.md R82), one constructor per row of spec/opcode_table.json. -/

namespace Sys2Proof

/-- A decoded command (R83) with the fields its word carries (R81). Every other operand is implicit, read from the
state at completion (R104). -/
inductive Instr where
  /-- KEYNORM, OP 0x01 (R131). -/
  | keynorm
  /-- PAD, OP 0x02, with its block size in bytes, 0 to 255 (R133, R81). -/
  | pad (blksz : Nat)
  /-- UNPAD_S, OP 0x03 (R135). -/
  | unpadS
  /-- UNPAD_L, OP 0x04 (R137). -/
  | unpadL
  /-- CFB_ENC, OP 0x10 (R152). -/
  | cfbEnc
  /-- CFB_DEC, OP 0x11 (R153). -/
  | cfbDec
  /-- ECB_ENC, OP 0x12, false = legacy, true = typed entry point (R172). -/
  | ecbEnc (typed : Bool)
  /-- ECB_DEC, OP 0x13, false = legacy, true = typed entry point (R173). -/
  | ecbDec (typed : Bool)
  /-- CTR_ENC, OP 0x14 (R193). -/
  | ctrEnc
  /-- CTR_DEC, OP 0x15 (R194). -/
  | ctrDec
  /-- HEX_ENC, OP 0x20 (R216). -/
  | hexEnc
  /-- HEX_DEC, OP 0x21 (R217). -/
  | hexDec
  /-- B64_ENC, OP 0x22 (R218). -/
  | b64Enc
  /-- B64_DEC, OP 0x23 (R219). -/
  | b64Dec
  deriving DecidableEq, Repr

end Sys2Proof
end

