-- ==== Sys2Proof/WellFormed.lean ====
section
/-! DEFINITION. When a command and a configuration are ones the spec has: BLKSZ is an 8-bit field (R81), and the parameters meet R3's constraints. -/

namespace Sys2Proof

/-- A command some word encodes: PAD's block size is an unsigned 8-bit integer (R81); no other command has a field that
its type does not already bound. A block size of 0 is well-formed (a legal word, R81, V-DEC-4). -/
def Instr.wellFormed : Instr → Bool
  | .pad blksz => decide (blksz ≤ 255)
  | .keynorm | .unpadS | .unpadL | .cfbEnc | .cfbDec | .ecbEnc _ | .ecbDec _ | .ctrEnc | .ctrDec
  | .hexEnc | .hexDec | .b64Enc | .b64Dec => true

/-- The constraint column of R3's table: "A parameter outside its constraint gives no AESMC." -/
def Params.legal (p : Params) : Bool :=
  decide (p.ibufSize % 4 = 0) && decide (64 ≤ p.ibufSize) && decide (p.ibufSize ≤ 16384)
    && decide (p.obufSize % 4 = 0) && decide (64 ≤ p.obufSize) && decide (p.obufSize ≤ 32768)

end Sys2Proof
end

