-- ==== Sys2Proof/Decode.lean ====
section
/-! DEFINITION. Decoding a command word, total on all 2^32 words (spec/30_encoding.md R83, R84), the encoder from the same
format (R80, R82), and the opcode table's rows. -/

namespace Sys2Proof

/-- Why a word is illegal (R84). -/
inductive Illegal where
  /-- (a) the OP value is reserved. -/
  | reservedOp
  /-- (b) the OP is legal, and a field that OP does not take is not zero. -/
  | reservedField
  deriving DecidableEq, Repr

/-- Field OP, bits [7:0] (R80). -/
def fieldOp (w : Word) : BitVec 8 := w.extractLsb' 0 8

/-- Field BLKSZ, bits [15:8] (R80). -/
def fieldBlksz (w : Word) : BitVec 8 := w.extractLsb' 8 8

/-- Field TYPED, bit [16] (R80). -/
def fieldTyped (w : Word) : Bool := w.getLsbD 16

/-- Bits [31:8], all of them zero in a command that takes no field (R83). -/
def bitsAboveOp (w : Word) : BitVec 24 := w.extractLsb' 8 24

/-- Bits [31:16], zero in PAD (R83). -/
def bitsAboveBlksz (w : Word) : BitVec 16 := w.extractLsb' 16 16

/-- Field RSVD, bits [31:17] (R80). -/
def fieldRsvd (w : Word) : BitVec 15 := w.extractLsb' 17 15

/-- A command that takes no field: every bit above OP must be zero (R83). -/
def decodePlain (w : Word) (i : Instr) : Except Illegal Instr :=
  if bitsAboveOp w = 0 then .ok i else .error .reservedField

/-- A command that takes TYPED alone: RSVD and BLKSZ must be zero (R83). -/
def decodeTyped (w : Word) (i : Bool → Instr) : Except Illegal Instr :=
  if fieldRsvd w = 0 ∧ fieldBlksz w = 0 then .ok (i (fieldTyped w)) else .error .reservedField

/-- R83's decode function. OP 0x30 and 0x31 are among the reserved values (R85). -/
def decode (w : Word) : Except Illegal Instr :=
  match fieldOp w with
  | 0x01#8 => decodePlain w .keynorm
  | 0x02#8 => if bitsAboveBlksz w = 0 then .ok (.pad (fieldBlksz w).toNat) else .error .reservedField
  | 0x03#8 => decodePlain w .unpadS
  | 0x04#8 => decodePlain w .unpadL
  | 0x10#8 => decodePlain w .cfbEnc
  | 0x11#8 => decodePlain w .cfbDec
  | 0x12#8 => decodeTyped w .ecbEnc
  | 0x13#8 => decodeTyped w .ecbDec
  | 0x14#8 => decodePlain w .ctrEnc
  | 0x15#8 => decodePlain w .ctrDec
  | 0x20#8 => decodePlain w .hexEnc
  | 0x21#8 => decodePlain w .hexDec
  | 0x22#8 => decodePlain w .b64Enc
  | 0x23#8 => decodePlain w .b64Dec
  | _ => .error .reservedOp

/-- The instruction this decoder reads from a word whose bits are `w`, bit 0 the least significant bit of the word; a
command is exactly one 32-bit word (R80), so no other length holds one. -/
def decodeTableWord (nbits w : Nat) : Option Instr :=
  if nbits ≤ 32 then
    match decode (BitVec.ofNat 32 (w % 2 ^ nbits)) with
    | .ok i => some i
    | .error _ => none
  else none

/-- The OP value of each command (R82). -/
def Instr.op : Instr → BitVec 8
  | .keynorm => 0x01
  | .pad _ => 0x02
  | .unpadS => 0x03
  | .unpadL => 0x04
  | .cfbEnc => 0x10
  | .cfbDec => 0x11
  | .ecbEnc _ => 0x12
  | .ecbDec _ => 0x13
  | .ctrEnc => 0x14
  | .ctrDec => 0x15
  | .hexEnc => 0x20
  | .hexDec => 0x21
  | .b64Enc => 0x22
  | .b64Dec => 0x23

/-- The mnemonic of each command (R82). -/
def Instr.mnemonic : Instr → String
  | .keynorm => "KEYNORM"
  | .pad _ => "PAD"
  | .unpadS => "UNPAD_S"
  | .unpadL => "UNPAD_L"
  | .cfbEnc => "CFB_ENC"
  | .cfbDec => "CFB_DEC"
  | .ecbEnc _ => "ECB_ENC"
  | .ecbDec _ => "ECB_DEC"
  | .ctrEnc => "CTR_ENC"
  | .ctrDec => "CTR_DEC"
  | .hexEnc => "HEX_ENC"
  | .hexDec => "HEX_DEC"
  | .b64Enc => "B64_ENC"
  | .b64Dec => "B64_DEC"

/-- The one word format of R80: TYPED at [16], BLKSZ at [15:8], OP at [7:0], and RSVD[31:17] zero. -/
def encodeFields (typed : Bool) (blksz op : BitVec 8) : Word :=
  ((BitVec.ofBool typed).setWidth 32 <<< 16) ||| (blksz.setWidth 32 <<< 8) ||| op.setWidth 32

/-- The word of a command (R82). -/
def encode (i : Instr) : Word :=
  match i with
  | .pad blksz => encodeFields false (BitVec.ofNat 8 blksz) i.op
  | .ecbEnc typed | .ecbDec typed => encodeFields typed 0 i.op
  | .keynorm | .unpadS | .unpadL | .cfbEnc | .cfbDec | .ctrEnc | .ctrDec | .hexEnc | .hexDec | .b64Enc | .b64Dec =>
    encodeFields false 0 i.op

/-- A row of R82's table: a word `w` is this row's when `w AND mask = value`. -/
structure OpcodeRow where
  mnemonic : String
  value : Word
  mask : Word
  deriving DecidableEq, Repr

/-- R82's table, column match and column mask. -/
def opcodeRows : List OpcodeRow :=
  [⟨"KEYNORM", 0x00000001, 0xFFFFFFFF⟩, ⟨"PAD", 0x00000002, 0xFFFF00FF⟩,
   ⟨"UNPAD_S", 0x00000003, 0xFFFFFFFF⟩, ⟨"UNPAD_L", 0x00000004, 0xFFFFFFFF⟩]
  ++ [⟨"CFB_ENC", 0x00000010, 0xFFFFFFFF⟩, ⟨"CFB_DEC", 0x00000011, 0xFFFFFFFF⟩,
   ⟨"ECB_ENC", 0x00000012, 0xFFFEFFFF⟩, ⟨"ECB_DEC", 0x00000013, 0xFFFEFFFF⟩,
   ⟨"CTR_ENC", 0x00000014, 0xFFFFFFFF⟩, ⟨"CTR_DEC", 0x00000015, 0xFFFFFFFF⟩]
  ++ [⟨"HEX_ENC", 0x00000020, 0xFFFFFFFF⟩, ⟨"HEX_DEC", 0x00000021, 0xFFFFFFFF⟩,
   ⟨"B64_ENC", 0x00000022, 0xFFFFFFFF⟩, ⟨"B64_DEC", 0x00000023, 0xFFFFFFFF⟩]

/-- R83: "A word w is legal when some row of rule R82 has (w AND mask) = match." -/
def OpcodeRow.hasWord (r : OpcodeRow) (w : Word) : Bool :=
  decide (w &&& r.mask = r.value)

end Sys2Proof
end

