-- ==== Sys2Proof/Machine/State.lean ====
section
/-! DEFINITION. The state of one AESMC with its host port, entropy source and reset input: the tuple of spec/10_state.md R20,
held as plain data, and the state after reset (spec/70_reset_and_hazards.md R270). -/

namespace Sys2Proof.Machine

/-- The controller's sequencer state (R22). -/
inductive Phase where
  | idle
  | busy
  deriving DecidableEq, Repr

/-- The width of a host access: n of R61 is 1, 2 or 4 bytes. -/
inductive Width where
  | byte
  | half
  | word
  deriving DecidableEq, Repr

/-- One step of one agent (R5, R70): the host's two accesses (R61), the entropy source offering a draw (R105), the
controller's turn (R102), and the reset input (R270). The data of a write is the low n bytes of `v` (log 11). -/
inductive Event where
  | hostRead (addr : Addr) (n : Width)
  | hostWrite (addr : Addr) (n : Width) (v : Word)
  | offer (draw : Draw)
  | controller
  | reset
  deriving DecidableEq, Repr

/-- The error names of R241 with an error code; NONE is no error. `cipherConstruction` and `decompressError` are
reserved and never raised (R211, U15). -/
inductive ErrorName where
  | invalidKeyLength
  | emptyInput
  | emptyPlaintext
  | decodeError
  | tooShort
  | invalidPadding
  | cipherConstruction
  | decompressError
  | notBlockMultiple
  | illegalCommand
  | inputOverflow
  | outputOverflow
  | invalidBlockSize
  deriving DecidableEq, Repr

/-- What a command's function returns (R9). -/
inductive Result where
  | ok (out : Bytes)
  | err (e : ErrorName)
  deriving DecidableEq, Repr

/-- The state tuple of R20, and below it the model's own fields. KEYBUF, IVBUF, IBUF and OBUF (R32 to R35) with their
UNWRITTEN marks (R39) are in `mem`, by window address. -/
structure State where
  /-- IDLE or BUSY (R22). -/
  phase : Phase
  /-- CTRL (R24). -/
  ctrl : Word
  /-- CMD, the last accepted command word (R25); with phase BUSY, the in-flight command (R38). -/
  cmd : Word
  /-- STATUS (R26). -/
  status : Word
  /-- KEY_LEN (R27). -/
  keyLen : Word
  /-- IN_LEN (R28). -/
  inLen : Word
  /-- OUT_LEN (R29). -/
  outLen : Word
  /-- cur_ivsel, the IV selection latched at accept (R37). -/
  curIvsel : Bool
  /-- The buffers: (window address, byte), addresses strictly rising, no entry equal to what an unlisted address reads
  as (`Memory.unlisted`, `Memory.wf`). -/
  mem : List Host.Cell
  /-- iv_draw, the draw the entropy source offers to the completion step, if it offers one (R102, R105). -/
  ivDraw : Option Draw
  /-- The model's own: the parameters of R3, which no step changes (log 1). -/
  cfg : Params
  /-- The model's own: the steps of the agents still to come, the next one first (R70; log 2). -/
  schedule : List Event
  /-- The model's own: what the host's reads returned, the newest first (log 11). -/
  hostReads : List Word
  /-- The model's own: how many host reads there have been; it makes each unspecified value a fresh one (log 5). -/
  fresh : Nat
  deriving DecidableEq, Repr

/-- Why the machine stops. -/
inductive Fault where
  /-- "command read of unwritten IBUF byte" (U3, R274, R277): raised by the completion of any command but KEYNORM when
  its function reads a byte of IBUF[0..IN_LEN) that is UNWRITTEN. Safe: the chip computes on whatever the RAM holds. -/
  | unwrittenInput
  /-- A non-admitted host access (R61, U6): raised by a misaligned access, or one of 1 or 2 bytes in 0x0000-0x00FF. The
  spec gives the host no step. Safe: the model has no run past the access. -/
  | notAdmitted
  deriving DecidableEq, Repr

/-- Why the model has no meaning for a step. -/
inductive Refusal where
  /-- Raised by an arm of `exec` whose instruction has no meaning yet; there is none. Safe. -/
  | notModelled (mnemonic : String)
  deriving DecidableEq, Repr

/-- R270's table with the parameters `cfg`: registers 0, phase IDLE, nothing listed in memory, so that KEYBUF and IVBUF
read 0x00 and every byte of IBUF and OBUF is UNWRITTEN. The model's own fields are empty (log 4, log 11). -/
def State.resetWith (cfg : Params) : State :=
  { phase := .idle, ctrl := 0, cmd := 0, status := 0, keyLen := 0, inLen := 0, outLen := 0, curIvsel := false,
    mem := [], ivDraw := none, cfg := cfg, schedule := [], hostReads := [], fresh := 0 }

/-- The machine right after reset (R270), with the default parameters (R3). -/
def State.reset : State := State.resetWith Params.default

end Sys2Proof.Machine
end

