-- ==== Sys2Proof/Machine/Aes.lean ====
section
/-! DEFINITION. The AES core: the interface of spec/45_codecs.md R210, a pair of functions on blocks of 16 bytes, and the instance
this machine has, FIPS-197 AES (R3's default; U1, U16). PRESUMED (the cipher's internals are general knowledge that the
spec only names; unsafe for a chip with another cipher): log 7. -/

namespace Sys2Proof.Machine

/-- The parameter `AES` of R3 and R210: AES_Enc and AES_Dec, a key first and a 16-byte block second. -/
structure BlockCipher where
  enc : Bytes → Bytes → Bytes
  dec : Bytes → Bytes → Bytes

/-- The key lengths the AES core takes (R210, R211). -/
def isKeyLength (n : Nat) : Bool := n == 16 || n == 24 || n == 32

/-- R210's law, with the lengths its signature states. It is all the AESMC assumes of the pair. -/
def BlockCipher.Lawful (c : BlockCipher) : Prop :=
  ∀ k b : Bytes, isKeyLength k.length = true → b.length = 16 →
    (c.enc k b).length = 16 ∧ (c.dec k b).length = 16 ∧ c.dec k (c.enc k b) = b ∧ c.enc k (c.dec k b) = b

/-! ### FIPS-197: bytes as elements of GF(2^8) -/

/-- FIPS-197 figure 7, the S-box: row by the high nibble, column by the low one. -/
def sboxRows : List (List Byte) :=
  [[0x63, 0x7c, 0x77, 0x7b, 0xf2, 0x6b, 0x6f, 0xc5, 0x30, 0x01, 0x67, 0x2b, 0xfe, 0xd7, 0xab, 0x76],
   [0xca, 0x82, 0xc9, 0x7d, 0xfa, 0x59, 0x47, 0xf0, 0xad, 0xd4, 0xa2, 0xaf, 0x9c, 0xa4, 0x72, 0xc0],
   [0xb7, 0xfd, 0x93, 0x26, 0x36, 0x3f, 0xf7, 0xcc, 0x34, 0xa5, 0xe5, 0xf1, 0x71, 0xd8, 0x31, 0x15],
   [0x04, 0xc7, 0x23, 0xc3, 0x18, 0x96, 0x05, 0x9a, 0x07, 0x12, 0x80, 0xe2, 0xeb, 0x27, 0xb2, 0x75]]
  ++ [[0x09, 0x83, 0x2c, 0x1a, 0x1b, 0x6e, 0x5a, 0xa0, 0x52, 0x3b, 0xd6, 0xb3, 0x29, 0xe3, 0x2f, 0x84],
   [0x53, 0xd1, 0x00, 0xed, 0x20, 0xfc, 0xb1, 0x5b, 0x6a, 0xcb, 0xbe, 0x39, 0x4a, 0x4c, 0x58, 0xcf],
   [0xd0, 0xef, 0xaa, 0xfb, 0x43, 0x4d, 0x33, 0x85, 0x45, 0xf9, 0x02, 0x7f, 0x50, 0x3c, 0x9f, 0xa8],
   [0x51, 0xa3, 0x40, 0x8f, 0x92, 0x9d, 0x38, 0xf5, 0xbc, 0xb6, 0xda, 0x21, 0x10, 0xff, 0xf3, 0xd2]]
  ++ [[0xcd, 0x0c, 0x13, 0xec, 0x5f, 0x97, 0x44, 0x17, 0xc4, 0xa7, 0x7e, 0x3d, 0x64, 0x5d, 0x19, 0x73],
   [0x60, 0x81, 0x4f, 0xdc, 0x22, 0x2a, 0x90, 0x88, 0x46, 0xee, 0xb8, 0x14, 0xde, 0x5e, 0x0b, 0xdb],
   [0xe0, 0x32, 0x3a, 0x0a, 0x49, 0x06, 0x24, 0x5c, 0xc2, 0xd3, 0xac, 0x62, 0x91, 0x95, 0xe4, 0x79],
   [0xe7, 0xc8, 0x37, 0x6d, 0x8d, 0xd5, 0x4e, 0xa9, 0x6c, 0x56, 0xf4, 0xea, 0x65, 0x7a, 0xae, 0x08]]
  ++ [[0xba, 0x78, 0x25, 0x2e, 0x1c, 0xa6, 0xb4, 0xc6, 0xe8, 0xdd, 0x74, 0x1f, 0x4b, 0xbd, 0x8b, 0x8a],
   [0x70, 0x3e, 0xb5, 0x66, 0x48, 0x03, 0xf6, 0x0e, 0x61, 0x35, 0x57, 0xb9, 0x86, 0xc1, 0x1d, 0x9e],
   [0xe1, 0xf8, 0x98, 0x11, 0x69, 0xd9, 0x8e, 0x94, 0x9b, 0x1e, 0x87, 0xe9, 0xce, 0x55, 0x28, 0xdf],
   [0x8c, 0xa1, 0x89, 0x0d, 0xbf, 0xe6, 0x42, 0x68, 0x41, 0x99, 0x2d, 0x0f, 0xb0, 0x54, 0xbb, 0x16]]

/-- FIPS-197 figure 14, the inverse S-box. -/
def invSboxRows : List (List Byte) :=
  [[0x52, 0x09, 0x6a, 0xd5, 0x30, 0x36, 0xa5, 0x38, 0xbf, 0x40, 0xa3, 0x9e, 0x81, 0xf3, 0xd7, 0xfb],
   [0x7c, 0xe3, 0x39, 0x82, 0x9b, 0x2f, 0xff, 0x87, 0x34, 0x8e, 0x43, 0x44, 0xc4, 0xde, 0xe9, 0xcb],
   [0x54, 0x7b, 0x94, 0x32, 0xa6, 0xc2, 0x23, 0x3d, 0xee, 0x4c, 0x95, 0x0b, 0x42, 0xfa, 0xc3, 0x4e],
   [0x08, 0x2e, 0xa1, 0x66, 0x28, 0xd9, 0x24, 0xb2, 0x76, 0x5b, 0xa2, 0x49, 0x6d, 0x8b, 0xd1, 0x25]]
  ++ [[0x72, 0xf8, 0xf6, 0x64, 0x86, 0x68, 0x98, 0x16, 0xd4, 0xa4, 0x5c, 0xcc, 0x5d, 0x65, 0xb6, 0x92],
   [0x6c, 0x70, 0x48, 0x50, 0xfd, 0xed, 0xb9, 0xda, 0x5e, 0x15, 0x46, 0x57, 0xa7, 0x8d, 0x9d, 0x84],
   [0x90, 0xd8, 0xab, 0x00, 0x8c, 0xbc, 0xd3, 0x0a, 0xf7, 0xe4, 0x58, 0x05, 0xb8, 0xb3, 0x45, 0x06],
   [0xd0, 0x2c, 0x1e, 0x8f, 0xca, 0x3f, 0x0f, 0x02, 0xc1, 0xaf, 0xbd, 0x03, 0x01, 0x13, 0x8a, 0x6b]]
  ++ [[0x3a, 0x91, 0x11, 0x41, 0x4f, 0x67, 0xdc, 0xea, 0x97, 0xf2, 0xcf, 0xce, 0xf0, 0xb4, 0xe6, 0x73],
   [0x96, 0xac, 0x74, 0x22, 0xe7, 0xad, 0x35, 0x85, 0xe2, 0xf9, 0x37, 0xe8, 0x1c, 0x75, 0xdf, 0x6e],
   [0x47, 0xf1, 0x1a, 0x71, 0x1d, 0x29, 0xc5, 0x89, 0x6f, 0xb7, 0x62, 0x0e, 0xaa, 0x18, 0xbe, 0x1b],
   [0xfc, 0x56, 0x3e, 0x4b, 0xc6, 0xd2, 0x79, 0x20, 0x9a, 0xdb, 0xc0, 0xfe, 0x78, 0xcd, 0x5a, 0xf4]]
  ++ [[0x1f, 0xdd, 0xa8, 0x33, 0x88, 0x07, 0xc7, 0x31, 0xb1, 0x12, 0x10, 0x59, 0x27, 0x80, 0xec, 0x5f],
   [0x60, 0x51, 0x7f, 0xa9, 0x19, 0xb5, 0x4a, 0x0d, 0x2d, 0xe5, 0x7a, 0x9f, 0x93, 0xc9, 0x9c, 0xef],
   [0xa0, 0xe0, 0x3b, 0x4d, 0xae, 0x2a, 0xf5, 0xb0, 0xc8, 0xeb, 0xbb, 0x3c, 0x83, 0x53, 0x99, 0x61],
   [0x17, 0x2b, 0x04, 0x7e, 0xba, 0x77, 0xd6, 0x26, 0xe1, 0x69, 0x14, 0x63, 0x55, 0x21, 0x0c, 0x7d]]

/-- The entry of a substitution table for byte `b`. -/
def substitute (rows : List (List Byte)) (b : Byte) : Byte :=
  (rows.getD (b.toNat / 16) []).getD (b.toNat % 16) 0

/-- S-box of one byte. -/
def sbox (b : Byte) : Byte := substitute sboxRows b

/-- Inverse S-box of one byte. -/
def invSbox (b : Byte) : Byte := substitute invSboxRows b

/-- Multiplication by x modulo x^8 + x^4 + x^3 + x + 1 (FIPS-197 section 4.2.1). -/
def xtime (b : Byte) : Byte :=
  if b.getLsbD 7 then (b <<< 1) ^^^ 0x1b else b <<< 1

/-- Multiplication by 3. -/
def mul3 (b : Byte) : Byte := xtime b ^^^ b

/-- Multiplication by 9. -/
def mul9 (b : Byte) : Byte := xtime (xtime (xtime b)) ^^^ b

/-- Multiplication by 11. -/
def mul11 (b : Byte) : Byte := xtime (xtime (xtime b)) ^^^ xtime b ^^^ b

/-- Multiplication by 13. -/
def mul13 (b : Byte) : Byte := xtime (xtime (xtime b)) ^^^ xtime (xtime b) ^^^ b

/-- Multiplication by 14. -/
def mul14 (b : Byte) : Byte := xtime (xtime (xtime b)) ^^^ xtime (xtime b) ^^^ xtime b

/-! ### The state: 16 bytes in column order, byte r + 4c in row r, column c (R210) -/

/-- Bytewise exclusive-or of two sequences, as long as the shorter one (R7). -/
def xorBytes (s t : Bytes) : Bytes := List.zipWith (· ^^^ ·) s t

/-- SubBytes. -/
def subBytes (b : Bytes) : Bytes := b.map sbox

/-- InvSubBytes. -/
def invSubBytes (b : Bytes) : Bytes := b.map invSbox

/-- ShiftRows: row r moves left by r columns. -/
def shiftRows (b : Bytes) : Bytes :=
  [0, 5, 10, 15, 4, 9, 14, 3, 8, 13, 2, 7, 12, 1, 6, 11].map (fun i => b.getD i 0)

/-- InvShiftRows: row r moves right by r columns. -/
def invShiftRows (b : Bytes) : Bytes :=
  [0, 13, 10, 7, 4, 1, 14, 11, 8, 5, 2, 15, 12, 9, 6, 3].map (fun i => b.getD i 0)

/-- MixColumns of one column (FIPS-197 section 5.1.3). -/
def mixColumn (a b c d : Byte) : Bytes :=
  [xtime a ^^^ mul3 b ^^^ c ^^^ d, a ^^^ xtime b ^^^ mul3 c ^^^ d,
   a ^^^ b ^^^ xtime c ^^^ mul3 d, mul3 a ^^^ b ^^^ c ^^^ xtime d]

/-- InvMixColumns of one column (FIPS-197 section 5.3.3). -/
def invMixColumn (a b c d : Byte) : Bytes :=
  [mul14 a ^^^ mul11 b ^^^ mul13 c ^^^ mul9 d, mul9 a ^^^ mul14 b ^^^ mul11 c ^^^ mul13 d,
   mul13 a ^^^ mul9 b ^^^ mul14 c ^^^ mul11 d, mul11 a ^^^ mul13 b ^^^ mul9 c ^^^ mul14 d]

/-- MixColumns, column by column. -/
def mixColumns : Bytes → Bytes
  | a :: b :: c :: d :: t => mixColumn a b c d ++ mixColumns t
  | _ => []

/-- InvMixColumns, column by column. -/
def invMixColumns : Bytes → Bytes
  | a :: b :: c :: d :: t => invMixColumn a b c d ++ invMixColumns t
  | _ => []

/-! ### Key expansion (FIPS-197 section 5.2) -/

/-- A byte sequence cut into words of 4 bytes. -/
def toWords : Bytes → List Bytes
  | a :: b :: c :: d :: t => [a, b, c, d] :: toWords t
  | _ => []

/-- Four words at a time, joined: the round keys. -/
def toRoundKeys : List Bytes → List Bytes
  | a :: b :: c :: d :: t => (a ++ b ++ c ++ d) :: toRoundKeys t
  | _ => []

/-- RotWord. -/
def rotWord : Bytes → Bytes
  | a :: t => t ++ [a]
  | [] => []

/-- Rcon[n], n from 1: x^(n-1) in the first byte. -/
def rcon : Nat → Byte
  | 0 => 0
  | 1 => 0x01
  | n + 2 => xtime (rcon (n + 1))

/-- What is added to word i - Nk to give word i, from word i - 1. -/
def keyTemp (nk i : Nat) (prev : Bytes) : Bytes :=
  if i % nk = 0 then xorBytes (subBytes (rotWord prev)) [rcon (i / nk), 0, 0, 0]
  else if 6 < nk ∧ i % nk = 4 then subBytes prev
  else prev

/-- Adds `n` words to the expanded key held newest word first, `i` being the number of the next word. -/
def expandWords (nk : Nat) : Nat → Nat → List Bytes → List Bytes
  | 0, _, ws => ws
  | n + 1, i, ws =>
    expandWords nk n (i + 1) (xorBytes (ws.getD (nk - 1) []) (keyTemp nk i (ws.headD [])) :: ws)

/-- The Nr + 1 round keys of key `k`: Nk = len(k)/4, Nr = Nk + 6 (R210: 10, 12 or 14 rounds). -/
def roundKeys (k : Bytes) : List Bytes :=
  toRoundKeys (expandWords (k.length / 4) (4 * (k.length / 4 + 7) - k.length / 4) (k.length / 4) (toWords k).reverse).reverse

/-! ### The cipher and its inverse (FIPS-197 sections 5.1 and 5.3) -/

/-- The rounds after the first AddRoundKey; the last one has no MixColumns. -/
def encRounds : List Bytes → Bytes → Bytes
  | [], b => b
  | [rk], b => xorBytes (shiftRows (subBytes b)) rk
  | rk :: rks, b => encRounds rks (xorBytes (mixColumns (shiftRows (subBytes b))) rk)

/-- The inverse of `encRounds`, from the last round to the first. -/
def decRounds : List Bytes → Bytes → Bytes
  | [], b => b
  | [rk], b => invSubBytes (invShiftRows (xorBytes b rk))
  | rk :: rks, b => invSubBytes (invShiftRows (invMixColumns (xorBytes (decRounds rks b) rk)))

/-- AES encryption of one block. -/
def aesEnc (k b : Bytes) : Bytes :=
  match roundKeys k with
  | [] => b
  | rk :: rks => encRounds rks (xorBytes b rk)

/-- AES decryption of one block. -/
def aesDec (k b : Bytes) : Bytes :=
  match roundKeys k with
  | [] => b
  | rk :: rks => xorBytes (decRounds rks b) rk

/-- The machine's cipher: FIPS-197 AES (R3's default, R210). -/
def fips197 : BlockCipher := { enc := aesEnc, dec := aesDec }

end Sys2Proof.Machine
end

