-- ==== Sys2Proof/Machine/Flags.lean ====
section
/-! DEFINITION. The flags of STATUS (spec/10_state.md R26, R36), the fields of CTRL (R24), the error codes (spec/60_exceptions.md
R241) and the irq output (R244). -/

namespace Sys2Proof.Machine

/-- `w` with bit `i` set to `b`. -/
def putBit (w : Word) (i : Nat) (b : Bool) : Word :=
  if b then w ||| (1#32 <<< i) else w &&& ~~~(1#32 <<< i)

/-- STATUS.BUSY, bit [0] (R26). -/
def statusBusy (w : Word) : Bool := w.getLsbD 0

/-- STATUS.DONE, bit [1] (R26). -/
def statusDone (w : Word) : Bool := w.getLsbD 1

/-- STATUS.ERR, bit [2] (R26). -/
def statusErr (w : Word) : Bool := w.getLsbD 2

/-- STATUS.BUSY_WR, bit [3] (R26). -/
def statusBusyWr (w : Word) : Bool := w.getLsbD 3

/-- STATUS.ERRCODE, bits [15:8] (R26). -/
def statusErrCode (w : Word) : Byte := w.extractLsb' 8 8

/-- `reg.STATUS.BUSY <- b`. -/
def putBusy (w : Word) (b : Bool) : Word := putBit w 0 b

/-- `reg.STATUS.DONE <- b`. -/
def putDone (w : Word) (b : Bool) : Word := putBit w 1 b

/-- `reg.STATUS.ERR <- b`. -/
def putErr (w : Word) (b : Bool) : Word := putBit w 2 b

/-- `reg.STATUS.BUSY_WR <- b`. -/
def putBusyWr (w : Word) (b : Bool) : Word := putBit w 3 b

/-- `reg.STATUS.ERRCODE <- c`. -/
def putErrCode (w : Word) (c : Byte) : Word :=
  (w &&& 0xFFFF00FF#32) ||| (c.setWidth 32 <<< 8)

/-- The bits of STATUS that always read 0: [7:4] and [31:16] (R26). -/
def statusReserved : Word := 0xFFFF00F0

/-- CTRL.IRQ_EN, bit [0] (R24). -/
def ctrlIrqEn (w : Word) : Bool := w.getLsbD 0

/-- CTRL.IV_FIXED, bit [1] (R24). -/
def ctrlIvFixed (w : Word) : Bool := w.getLsbD 1

/-- What a write of `v` to CTRL stores: IRQ_EN and IV_FIXED take v[0] and v[1], bits [31:2] read as 0 (R24, R64). -/
def ctrlStored (v : Word) : Word := v &&& 0x00000003

/-- What a write of `v` to STATUS leaves: DONE and BUSY_WR are cleared by a 1, every other bit of `v` is ignored (R26). -/
def statusAfterWrite (status v : Word) : Word :=
  let afterDone := if v.getLsbD 1 then putDone status false else status
  if v.getLsbD 3 then putBusyWr afterDone false else afterDone

/-- The code of each error (R241). -/
def errorCode : ErrorName → Byte
  | .invalidKeyLength => 0x01
  | .emptyInput => 0x02
  | .emptyPlaintext => 0x03
  | .decodeError => 0x04
  | .tooShort => 0x05
  | .invalidPadding => 0x06
  | .cipherConstruction => 0x07
  | .decompressError => 0x08
  | .notBlockMultiple => 0x09
  | .illegalCommand => 0x10
  | .inputOverflow => 0x11
  | .outputOverflow => 0x12
  | .invalidBlockSize => 0x13

/-- STATUS after an accept (R100): BUSY set, DONE, ERR and ERRCODE cleared, BUSY_WR unchanged. -/
def statusAccepted (w : Word) : Word :=
  putErrCode (putErr (putDone (putBusy w true) false) false) 0x00

/-- STATUS after an Ok completion (R107): ERR and ERRCODE cleared, BUSY cleared, DONE set. -/
def statusOk (w : Word) : Word :=
  putDone (putBusy (putErrCode (putErr w false) 0x00) false) true

/-- STATUS after an error completion (R107, R245): ERR set with its code, BUSY cleared, DONE set. -/
def statusError (w : Word) (e : ErrorName) : Word :=
  putDone (putBusy (putErrCode (putErr w true) (errorCode e)) false) true

/-- The interrupt output: CTRL.IRQ_EN AND STATUS.DONE, a level (R244). -/
def State.irq (s : State) : Bool := ctrlIrqEn s.ctrl && statusDone s.status

end Sys2Proof.Machine
end

