-- ==== Sys2Proof/Machine/Ops.lean ====
section
/-! DEFINITION. The named operations over the buffers and registers: memory in its canonical form, the window's regions
(spec/20_memory.md R60), accept (spec/40_dispatch.md R100, R101), Finish (R107) with the error entry (spec/60_exceptions.md R245),
and reset (spec/70_reset_and_hazards.md R270). -/

namespace Sys2Proof.Machine

/-! ### The window's regions (R60) -/

/-- Window address of KEYBUF[0] (R32). -/
def keybufBase : Nat := 0x0100

/-- Size of KEYBUF in bytes (R32). -/
def keybufSize : Nat := 32

/-- Window address of IVBUF[0] (R33). -/
def ivbufBase : Nat := 0x0120

/-- Size of IVBUF in bytes (R33). -/
def ivbufSize : Nat := 16

/-- Window address of IBUF[0] (R34). -/
def ibufBase : Nat := 0x4000

/-- Window address of OBUF[0] (R35). -/
def obufBase : Nat := 0x8000

/-- What a byte of the window belongs to (R60). -/
inductive Region where
  | registers
  | keybuf
  | ivbuf
  | ibuf
  | obuf
  | unmapped
  deriving DecidableEq, Repr

/-- The map of R60 for the parameters `p`. The ranges of IBUF and OBUF beyond their sizes are unmapped (R65). -/
def regionOf (p : Params) (a : Nat) : Region :=
  if a < 0x0024 then .registers
  else if keybufBase ≤ a ∧ a < keybufBase + keybufSize then .keybuf
  else if ivbufBase ≤ a ∧ a < ivbufBase + ivbufSize then .ivbuf
  else if ibufBase ≤ a ∧ a < ibufBase + p.ibufSize then .ibuf
  else if obufBase ≤ a ∧ a < obufBase + p.obufSize then .obuf
  else .unmapped

/-! ### Memory: the buffers' bytes -/

/-- A list of (window address, byte). -/
abbrev Memory := List Host.Cell

/-- What an address that is not listed reads as: 0x00 in KEYBUF and IVBUF, UNWRITTEN elsewhere (R270's reset contents).
DEDUCED (safe): log 10. -/
def Memory.unlisted (a : Nat) : Option Byte :=
  if keybufBase ≤ a ∧ a < ivbufBase + ivbufSize then some 0x00 else none

/-- The entry of address `a`, if there is one. -/
def Memory.lookup : Memory → Nat → Option Byte
  | [], _ => none
  | (b, v) :: m, a => if b = a then some v else Memory.lookup m a

/-- The byte at address `a`; none means UNWRITTEN (R39). -/
def Memory.read (m : Memory) (a : Nat) : Option Byte :=
  match Memory.lookup m a with
  | some v => some v
  | none => Memory.unlisted a

/-- `m` without an entry for `a`. -/
def Memory.erase (m : Memory) (a : Nat) : Memory :=
  m.filter (fun c => decide (c.1 ≠ a))

/-- `m` with the entry `(a, v)` in its place. -/
def Memory.insert : Memory → Nat → Byte → Memory
  | [], a, v => [(a, v)]
  | (b, w) :: m, a, v =>
    if b < a then (b, w) :: Memory.insert m a v
    else if b = a then (a, v) :: m
    else (a, v) :: (b, w) :: m

/-- Writes one byte, keeping the canonical form. -/
def Memory.write (m : Memory) (a : Nat) (v : Byte) : Memory :=
  if Memory.unlisted a = some v then Memory.erase m a else Memory.insert m a v

/-- Writes bytes at rising addresses from `a`. -/
def Memory.writeBytes (m : Memory) (a : Nat) : Bytes → Memory
  | [] => m
  | v :: vs => Memory.writeBytes (Memory.write m a v) (a + 1) vs

/-- Takes `n` addresses from `a` back to what an unlisted address reads as; in IBUF and OBUF that is UNWRITTEN. -/
def Memory.clear (m : Memory) (a n : Nat) : Memory :=
  m.filter (fun c => decide (¬(a ≤ c.1 ∧ c.1 < a + n)))

/-- The addresses strictly rise. -/
def Memory.rising : Memory → Bool
  | [] => true
  | [_] => true
  | c :: d :: m => decide (c.1 < d.1) && Memory.rising (d :: m)

/-- The canonical form: addresses strictly rising, no entry equal to what an unlisted address reads as. -/
def Memory.wf (m : Memory) : Bool :=
  Memory.rising m && m.all (fun c => decide (Memory.unlisted c.1 ≠ some c.2))

/-- Every entry is a byte of a buffer that the parameters give (R60). -/
def Memory.inBuffers (p : Params) (m : Memory) : Bool :=
  m.all (fun c => match regionOf p c.1 with
    | .keybuf | .ivbuf | .ibuf | .obuf => true
    | .registers | .unmapped => false)

/-! ### Updates of one field -/

def State.setPhase (s : State) (v : Phase) : State := { s with phase := v }
def State.setCtrl (s : State) (v : Word) : State := { s with ctrl := v }
def State.setCmd (s : State) (v : Word) : State := { s with cmd := v }
def State.setStatus (s : State) (v : Word) : State := { s with status := v }
def State.setKeyLen (s : State) (v : Word) : State := { s with keyLen := v }
def State.setInLen (s : State) (v : Word) : State := { s with inLen := v }
def State.setOutLen (s : State) (v : Word) : State := { s with outLen := v }
def State.setCurIvsel (s : State) (v : Bool) : State := { s with curIvsel := v }
def State.setMem (s : State) (v : Memory) : State := { s with mem := v }
def State.setIvDraw (s : State) (v : Option Draw) : State := { s with ivDraw := v }
def State.setSchedule (s : State) (v : List Event) : State := { s with schedule := v }
def State.setHostReads (s : State) (v : List Word) : State := { s with hostReads := v }
def State.setFresh (s : State) (v : Nat) : State := { s with fresh := v }

/-- The byte of the window's buffers at address `a`; none means UNWRITTEN. -/
def State.byteAt (s : State) (a : Nat) : Option Byte := Memory.read s.mem a

/-! ### Accept (R100, R101) -/

/-- A write to CMD while IDLE: the word is accepted, legal or not (R100). -/
def accept (s : State) (w : Word) : State :=
  (((((s.setCmd w).setCurIvsel (ctrlIvFixed s.ctrl)).setOutLen 0).setStatus (statusAccepted s.status)).setPhase .busy)

/-- An ignored write while BUSY: only STATUS.BUSY_WR is set (R67, R101). -/
def noteBusyWrite (s : State) : State :=
  s.setStatus (putBusyWr s.status true)

/-! ### Completion's write-back (R107) -/

/-- An Ok completion: OBUF[0..len(out)) = out, OUT_LEN = len(out), and the flags (R107). -/
def finishOk (s : State) (out : Bytes) : State :=
  (((s.setMem (Memory.writeBytes s.mem obufBase out)).setOutLen (BitVec.ofNat 32 out.length)).setStatus
    (statusOk s.status)).setPhase .idle

/-- The error entry: OBUF unspecified, OUT_LEN = 0, ERR and ERRCODE, and nothing else (R107, R240, R245). -/
def finishErr (s : State) (e : ErrorName) : State :=
  (((s.setMem (Memory.clear s.mem obufBase s.cfg.obufSize)).setOutLen 0).setStatus (statusError s.status e)).setPhase .idle

/-- An Ok output longer than OBUF becomes OUTPUT_OVERFLOW; an error of the function stays as it is (R107). -/
def limitOutput (p : Params) : Result → Result
  | .ok out => if p.obufSize < out.length then .err .outputOverflow else .ok out
  | .err e => .err e

/-- R107's Finish. -/
def finish (s : State) (r : Result) : State :=
  match limitOutput s.cfg r with
  | .ok out => finishOk s out
  | .err e => finishErr s e

/-! ### The ECB sentinel shim (R106) -/

/-- The errors the legacy entry point collapses: those of the ECB transform itself (R106). -/
def ErrorName.collapses : ErrorName → Bool
  | .decodeError | .emptyInput | .notBlockMultiple | .cipherConstruction => true
  | .invalidKeyLength | .emptyPlaintext | .tooShort | .invalidPadding | .decompressError | .illegalCommand
  | .inputOverflow | .outputOverflow | .invalidBlockSize => false

/-- R106's Collapse for an ECB command: with TYPED = 0 a failure of the transform becomes the empty output. -/
def collapse (typed : Bool) : Result → Result
  | .err e => if !typed && e.collapses then .ok [] else .err e
  | .ok out => .ok out

/-! ### Reset (R270) -/

/-- The reset step, in either phase: R270's table. The parameters are constants, and the other agents' own data stay
(log 4, log 11). -/
def resetStep (s : State) : State :=
  ((((State.resetWith s.cfg).setIvDraw s.ivDraw).setSchedule s.schedule).setHostReads s.hostReads).setFresh s.fresh

end Sys2Proof.Machine
end

