-- ==== Sys2Proof/Machine/Operands.lean ====
section
/-! DEFINITION. The operands every command shares: the views of spec/40_dispatch.md R104, the IV source (R105), which bytes of the
input a function reads (R9, R111, R274), byte-sequence primitives (spec/00_scope.md R7), and the frame around a command's
function: INPUT_OVERFLOW, the wait for a draw, the unwritten-input fault, Finish (R102, R103, R107). -/

namespace Sys2Proof.Machine

/-! ### Byte sequences (R7) -/

/-- `uint_be(s)`: the unsigned integer whose most significant byte is s[0]. -/
def uintBe (s : Bytes) : Nat := s.foldl (fun acc b => acc * 256 + b.toNat) 0

/-- `be_bytes_N(v)`: the N-byte big-endian sequence of v mod 2^(8N). -/
def beBytes : Nat → Nat → Bytes
  | 0, _ => []
  | n + 1, v => beBytes n (v / 256) ++ [BitVec.ofNat 8 v]

/-- `s xor ks[0..len(s))`, when `ks` is at least as long as `s`. -/
def xorPrefix (s ks : Bytes) : Bytes := List.zipWith (· ^^^ ·) s ks

/-- The sequence cut into pieces of 16 bytes, the last one as long as what is left, using at most `n` pieces. -/
def cutBlocks : Nat → Bytes → List Bytes
  | 0, _ => []
  | _ + 1, [] => []
  | n + 1, b :: bs => (b :: bs).take 16 :: cutBlocks n ((b :: bs).drop 16)

/-- The 16-byte blocks of a sequence, the last one 1 to 16 bytes long (R150, R170). -/
def blocksOf (s : Bytes) : List Bytes := cutBlocks s.length s

/-! ### Operand views (R104) -/

/-- Bytes of a buffer from address `a`; KEYBUF and IVBUF hold a value in every byte (R32, R33). -/
def bufferBytes (s : State) (a n : Nat) : Bytes :=
  (List.range n).map (fun j => (s.byteAt (a + j)).getD 0x00)

/-- KB = KEYBUF[0..32). -/
def keyBuf (s : State) : Bytes := bufferBytes s keybufBase keybufSize

/-- KL = KEY_LEN, an unsigned integer. -/
def keyLength (s : State) : Nat := s.keyLen.toNat

/-- IVBUF[0..16). -/
def ivBuf (s : State) : Bytes := bufferBytes s ivbufBase ivbufSize

/-- IN_LEN, an unsigned integer. -/
def inLength (s : State) : Nat := s.inLen.toNat

/-- IBUF[0..IN_LEN), each byte a value or UNWRITTEN. -/
def inputCells (s : State) : List (Option Byte) :=
  (List.range (inLength s)).map (fun j => s.byteAt (ibufBase + j))

/-- IN_LEN > IBUF_SIZE, when no command but KEYNORM runs (R28, R103). -/
def inputTooLong (s : State) : Bool := decide (s.cfg.ibufSize < inLength s)

/-! ### Which bytes of the input a function reads

`r P j` says that the function reads P[j] when it runs on P, in the order of its pseudocode, where `raise` "evaluates
nothing after it" (R9). A byte that is not read may be UNWRITTEN (R274, R277); one that is read and UNWRITTEN is the
fault of U3. DEDUCED (safe): log 6. -/

/-- Reads no byte. -/
def readsNone (_ : Bytes) (_ : Nat) : Bool := false

/-- Reads every byte. -/
def readsAll (_ : Bytes) (_ : Nat) : Bool := true

/-- The input with 0x00 in place of UNWRITTEN bytes. A function whose reads miss those bytes does not depend on the 0x00. -/
def filledInput (s : State) : Bytes := (inputCells s).map (fun c => c.getD 0x00)

/-- P, if every byte that `reads` says is read holds a value. -/
def readInput (s : State) (reads : Bytes → Nat → Bool) : Option Bytes :=
  if (List.range (inLength s)).all (fun j => !reads (filledInput s) j || (s.byteAt (ibufBase + j)).isSome)
  then some (filledInput s) else none

/-! ### The frame around a command's function -/

/-- The completion step of a command that has its IV or needs none: it runs `op` on P and finishes; the fault of U3 if
`op` reads an UNWRITTEN byte. -/
def completeWith (s : State) (reads : Bytes → Nat → Bool) (op : Bytes → Result) : Host.Outcome State Fault Refusal :=
  match readInput s reads with
  | some P => .next (finish s (op P))
  | none => .fault .unwrittenInput

/-- R103's check before every command but KEYNORM, then the command. -/
def checkInput (s : State) (rest : Host.Outcome State Fault Refusal) : Host.Outcome State Fault Refusal :=
  if inputTooLong s then .next (finish s (.err .inputOverflow)) else rest

/-- R102, R105: the IV is IVBUF when cur_ivsel = 1, else the draw on offer, which the step takes; with no draw on offer
the completion waits and nothing changes. -/
def withIv (s : State) (k : State → Bytes → Host.Outcome State Fault Refusal) : Host.Outcome State Fault Refusal :=
  if s.curIvsel then k s (ivBuf s)
  else match s.ivDraw with
    | some d => k (s.setIvDraw none) d.toList
    | none => .next s

/-- The completion of an illegal word (R84, R103): it reads no input, and no shim collapses it. -/
def completeIllegal (s : State) : Host.Outcome State Fault Refusal :=
  .next (finish s (.err .illegalCommand))

end Sys2Proof.Machine
end

