-- ==== Sys2Proof/Machine/Codecs.lean ====
section
/-! DEFINITION. The text codecs of spec/45_codecs.md: hex (R212, R213) and base64 (R214, R215) with the parameters of R3, and
HEX_ENC, HEX_DEC, B64_ENC and B64_DEC (R216 to R219). -/

namespace Sys2Proof.Machine

/-! ### Hex -/

/-- HEXDIG = "0123456789abcdef" (R212). -/
def hexAlphabet : Bytes :=
  [0x30, 0x31, 0x32, 0x33, 0x34, 0x35, 0x36, 0x37, 0x38, 0x39, 0x61, 0x62, 0x63, 0x64, 0x65, 0x66]

/-- HEXDIG[v] for v in 0..15. -/
def hexDigit (v : Nat) : Byte := hexAlphabet.getD v 0

/-- R212: two characters per byte, high nibble first. -/
def hexEncode (d : Bytes) : Bytes :=
  d.flatMap (fun b => [hexDigit (b.toNat / 16), hexDigit (b.toNat % 16)])

/-- R213's hexval: either case. -/
def hexVal (c : Byte) : Option Nat :=
  if 0x30 ≤ c.toNat ∧ c.toNat ≤ 0x39 then some (c.toNat - 0x30)
  else if 0x61 ≤ c.toNat ∧ c.toNat ≤ 0x66 then some (c.toNat - 0x61 + 10)
  else if 0x41 ≤ c.toNat ∧ c.toNat ≤ 0x46 then some (c.toNat - 0x41 + 10)
  else none

/-- The bytes of a text of hex characters, two each; none if a character is no hex digit or the length is odd. -/
def hexPairs : Bytes → Option Bytes
  | [] => some []
  | [_] => none
  | hi :: lo :: t =>
    match hexVal hi, hexVal lo, hexPairs t with
    | some h, some l, some r => some (BitVec.ofNat 8 (16 * h + l) :: r)
    | _, _, _ => none

/-- R213: `hex_decode`. -/
def hexDecode (t : Bytes) : Result :=
  if t.length % 2 ≠ 0 then .err .decodeError
  else match hexPairs t with
    | some out => .ok out
    | none => .err .decodeError

/-! ### Base64 -/

/-- B64 = "A..Za..z0..9+/" (R214). -/
def b64Alphabet : Bytes :=
  [0x41, 0x42, 0x43, 0x44, 0x45, 0x46, 0x47, 0x48, 0x49, 0x4a, 0x4b, 0x4c, 0x4d, 0x4e, 0x4f, 0x50,
   0x51, 0x52, 0x53, 0x54, 0x55, 0x56, 0x57, 0x58, 0x59, 0x5a]
  ++ [0x61, 0x62, 0x63, 0x64, 0x65, 0x66, 0x67, 0x68, 0x69, 0x6a, 0x6b, 0x6c, 0x6d, 0x6e, 0x6f, 0x70,
   0x71, 0x72, 0x73, 0x74, 0x75, 0x76, 0x77, 0x78, 0x79, 0x7a]
  ++ [0x30, 0x31, 0x32, 0x33, 0x34, 0x35, 0x36, 0x37, 0x38, 0x39, 0x2b, 0x2f]

/-- The character '='. -/
def b64Pad : Byte := 0x3d

/-- B64[v] for v in 0..63. -/
def b64Digit (v : Nat) : Byte := b64Alphabet.getD v 0

/-- R214: three bytes to four characters, a last group of one or two bytes padded with '='. -/
def b64Encode : Bytes → Bytes
  | [] => []
  | [a] =>
    [b64Digit (a.toNat * 65536 / 262144 % 64), b64Digit (a.toNat * 65536 / 4096 % 64), b64Pad, b64Pad]
  | [a, b] =>
    [b64Digit (uintBe [a, b] * 256 / 262144 % 64), b64Digit (uintBe [a, b] * 256 / 4096 % 64),
     b64Digit (uintBe [a, b] * 256 / 64 % 64), b64Pad]
  | a :: b :: c :: t =>
    [b64Digit (uintBe [a, b, c] / 262144 % 64), b64Digit (uintBe [a, b, c] / 4096 % 64),
     b64Digit (uintBe [a, b, c] / 64 % 64), b64Digit (uintBe [a, b, c] % 64)] ++ b64Encode t

/-- The position of `c` in a list of characters, counted from `i`. -/
def indexFrom (c : Byte) : Nat → Bytes → Option Nat
  | _, [] => none
  | i, x :: xs => if x = c then some i else indexFrom c (i + 1) xs

/-- R215's b64val: the index of `c` in B64; none for '=' and every other byte outside it. -/
def b64Val (c : Byte) : Option Nat := indexFrom c 0 b64Alphabet

/-- Σ b64val(g[i]) · 64^(n-1-i), if each character is in B64, from the value `acc` of the characters before. -/
def b64Sum : Nat → Bytes → Option Nat
  | acc, [] => some acc
  | acc, c :: cs =>
    match b64Val c with
    | some v => b64Sum (acc * 64 + v) cs
    | none => none

/-- One quantum of R215: 2, 3 or 4 characters, the shorter ones only in the last quantum. -/
def b64Quantum (strict last : Bool) (a b c d : Byte) : Option Bytes :=
  if last = true ∧ c = b64Pad ∧ d = b64Pad then
    match b64Sum 0 [a, b] with
    | some v => if strict = true ∧ v % 16 ≠ 0 then none else some (beBytes 1 (v / 16))
    | none => none
  else if last = true ∧ d = b64Pad then
    match b64Sum 0 [a, b, c] with
    | some v => if strict = true ∧ v % 4 ≠ 0 then none else some (beBytes 2 (v / 4))
    | none => none
  else
    match b64Sum 0 [a, b, c, d] with
    | some v => some (beBytes 3 v)
    | none => none

/-- The quanta of R215, in order; none at the first failure or where fewer than four characters are left. -/
def b64Quanta (strict : Bool) : Bytes → Option Bytes
  | [] => some []
  | a :: b :: c :: d :: t =>
    match b64Quantum strict t.isEmpty a b c d, b64Quanta strict t with
    | some x, some r => some (x ++ r)
    | _, _ => none
  | _ => none

/-- U of R215: T without its CR and LF bytes when B64_SKIP_CRLF = 1. -/
def b64Text (skip : Bool) (t : Bytes) : Bytes :=
  if skip then t.filter (fun c => decide (c ≠ 0x0d) && decide (c ≠ 0x0a)) else t

/-- R215: `base64_decode` with the parameters B64_SKIP_CRLF and B64_STRICT. -/
def b64Decode (p : Params) (t : Bytes) : Result :=
  if (b64Text p.b64SkipCrlf t).length % 4 ≠ 0 then .err .decodeError
  else match b64Quanta p.b64Strict (b64Text p.b64SkipCrlf t) with
    | some out => .ok out
    | none => .err .decodeError

/-! ### What the decoders read -/

/-- R213: nothing of a text of odd length; else the characters up to the first that is no hex digit. -/
def readsHex (t : Bytes) (j : Nat) : Bool :=
  decide (t.length % 2 = 0) && (t.take j).all (fun c => (hexVal c).isSome)

/-- R215: all of T when CR and LF must be found; else nothing of a text whose length is not a multiple of 4, and the
quanta up to the first that fails. -/
def readsB64 (p : Params) (t : Bytes) (j : Nat) : Bool :=
  p.b64SkipCrlf
    || (decide (t.length % 4 = 0) && (t.take (4 * (j / 4))).all (fun c => (b64Val c).isSome))

/-! ### The commands -/

/-- R216's pseudocode. -/
def opHexEnc (p : Bytes) : Result := .ok (hexEncode p)

/-- R217's pseudocode. -/
def opHexDec (t : Bytes) : Result := hexDecode t

/-- R218's pseudocode. -/
def opB64Enc (p : Bytes) : Result := .ok (b64Encode p)

/-- R219's pseudocode. -/
def opB64Dec (c : Params) (t : Bytes) : Result := b64Decode c t

/-- HEX_ENC (R216). -/
def execHexEnc (s : State) : Host.Outcome State Fault Refusal :=
  checkInput s (completeWith s readsAll opHexEnc)

/-- HEX_DEC (R217). -/
def execHexDec (s : State) : Host.Outcome State Fault Refusal :=
  checkInput s (completeWith s readsHex opHexDec)

/-- B64_ENC (R218). -/
def execB64Enc (s : State) : Host.Outcome State Fault Refusal :=
  checkInput s (completeWith s readsAll opB64Enc)

/-- B64_DEC (R219). -/
def execB64Dec (s : State) : Host.Outcome State Fault Refusal :=
  checkInput s (completeWith s (readsB64 s.cfg) (opB64Dec s.cfg))

end Sys2Proof.Machine
end

