-- ==== Sys2Proof/Machine/KeyPadding.lean ====
section
/-! DEFINITION. The family of spec/41_key_padding.md: the key normalizer (R130), PKCS#7 padding (R132), the strict and lenient
unpad (R134, R136, R138), and KEYNORM, PAD, UNPAD_S and UNPAD_L (R131, R133, R135, R137). -/

namespace Sys2Proof.Machine

/-- R130: sixteen bytes, k[i] = KB[i] for i < KL and 0x00 beyond. -/
def normalize (kb : Bytes) (kl : Nat) : Bytes :=
  (List.range 16).map (fun i => if i < kl then kb.getD i 0x00 else 0x00)

/-- R132, for 1 ≤ b ≤ 255. -/
def pad (d : Bytes) (b : Nat) : Bytes :=
  d ++ List.replicate (b - d.length % b) (BitVec.ofNat 8 (b - d.length % b))

/-- R134: the byte-verifying unpad, with its fixed ceiling of 16. -/
def unpadStrict (d : Bytes) : Result :=
  match d.getLast? with
  | none => .err .invalidPadding
  | some last =>
    if last.toNat = 0 then .err .invalidPadding
    else if d.length < last.toNat then .err .invalidPadding
    else if 16 < last.toNat then .err .invalidPadding
    else if (d.drop (d.length - last.toNat)).all (fun x => decide (x = last)) then
      .ok (d.take (d.length - last.toNat))
    else .err .invalidPadding

/-- R136: the trim-only unpad, [] of [] (D14). -/
def unpadLenient (d : Bytes) : Bytes :=
  match d.getLast? with
  | none => []
  | some last => if d.length < last.toNat then d else d.take (d.length - last.toNat)

/-! ### The commands' functions -/

/-- R131's pseudocode. -/
def opKeynorm (kb : Bytes) (kl : Nat) : Result := .ok (normalize kb kl)

/-- R133's pseudocode. -/
def opPad (p : Bytes) (blksz : Nat) : Result :=
  if blksz = 0 then .err .invalidBlockSize else .ok (pad p blksz)

/-- R135's pseudocode. -/
def opUnpadS (p : Bytes) : Result := unpadStrict p

/-- R137's pseudocode. -/
def opUnpadL (p : Bytes) : Result := .ok (unpadLenient p)

/-! ### What they read -/

/-- PAD with BLKSZ = 0 raises before it reads (R133). -/
def readsPad (blksz : Nat) (_ : Bytes) (_ : Nat) : Bool := decide (blksz ≠ 0)

/-- R134 in order: the last byte; then, if it is a possible pad length, the pad bytes up to the first wrong one; then,
if none is wrong, the bytes of the output. -/
def readsUnpadS (p : Bytes) (j : Nat) : Bool :=
  match p.getLast? with
  | none => false
  | some last =>
    decide (j + 1 = p.length)
      || (decide (last.toNat ≠ 0 ∧ last.toNat ≤ p.length ∧ last.toNat ≤ 16)
        && (((p.drop (p.length - last.toNat)).all (fun x => decide (x = last)))
          || (decide (p.length - last.toNat ≤ j)
            && ((p.take j).drop (p.length - last.toNat)).all (fun x => decide (x = last)))))

/-- R136: the last byte, and the bytes of the output. -/
def readsUnpadL (p : Bytes) (j : Nat) : Bool :=
  match p.getLast? with
  | none => false
  | some last => decide (j + 1 = p.length) || decide (p.length < last.toNat) || decide (j < p.length - last.toNat)

/-! ### The commands -/

/-- KEYNORM (R131): no INPUT_OVERFLOW, no read of IBUF (R103). -/
def execKeynorm (s : State) : Host.Outcome State Fault Refusal :=
  .next (finish s (opKeynorm (keyBuf s) (keyLength s)))

/-- PAD (R133). -/
def execPad (blksz : Nat) (s : State) : Host.Outcome State Fault Refusal :=
  checkInput s (completeWith s (readsPad blksz) (fun p => opPad p blksz))

/-- UNPAD_S (R135). -/
def execUnpadS (s : State) : Host.Outcome State Fault Refusal :=
  checkInput s (completeWith s readsUnpadS opUnpadS)

/-- UNPAD_L (R137). -/
def execUnpadL (s : State) : Host.Outcome State Fault Refusal :=
  checkInput s (completeWith s readsUnpadL opUnpadL)

end Sys2Proof.Machine
end

