-- ==== Sys2Proof/Machine/Cfb.lean ====
section
/-! DEFINITION. The CFB family of spec/42_cfb.md: CFB with a 16-byte feedback segment (R150, R151), CFB_ENC and CFB_DEC (R152, R153). -/

namespace Sys2Proof.Machine

/-- R150 block by block: `prev` is the IV, then each ciphertext block. -/
def cfbEncBlocks (c : BlockCipher) (k prev : Bytes) : List Bytes → Bytes
  | [] => []
  | p :: ps => xorPrefix p (c.enc k prev) ++ cfbEncBlocks c k (xorPrefix p (c.enc k prev)) ps

/-- R150: `cfb_encrypt(k, iv, P)`. -/
def cfbEncrypt (c : BlockCipher) (k iv p : Bytes) : Bytes := cfbEncBlocks c k iv (blocksOf p)

/-- R151 block by block: the feedback is the received ciphertext block. -/
def cfbDecBlocks (c : BlockCipher) (k prev : Bytes) : List Bytes → Bytes
  | [] => []
  | x :: xs => xorPrefix x (c.enc k prev) ++ cfbDecBlocks c k x xs

/-- R151: `cfb_decrypt(k, iv, C)`. -/
def cfbDecrypt (c : BlockCipher) (k iv x : Bytes) : Bytes := cfbDecBlocks c k iv (blocksOf x)

/-- R152's pseudocode. -/
def opCfbEnc (c : BlockCipher) (kb : Bytes) (kl : Nat) (p iv : Bytes) : Result :=
  .ok (hexEncode (iv ++ cfbEncrypt c (normalize kb kl) iv p))

/-- R153's pseudocode. -/
def opCfbDec (c : BlockCipher) (kb : Bytes) (kl : Nat) (t : Bytes) : Result :=
  match hexDecode t with
  | .err e => .err e
  | .ok x =>
    if x.length < 16 then .err .tooShort
    else .ok (cfbDecrypt c (normalize kb kl) (x.take 16) (x.drop 16))

/-- CFB_ENC (R152). -/
def execCfbEnc (s : State) : Host.Outcome State Fault Refusal :=
  checkInput s (withIv s (fun t iv =>
    completeWith t readsAll (fun p => opCfbEnc fips197 (keyBuf t) (keyLength t) p iv)))

/-- CFB_DEC (R153). -/
def execCfbDec (s : State) : Host.Outcome State Fault Refusal :=
  checkInput s (completeWith s readsHex (opCfbDec fips197 (keyBuf s) (keyLength s)))

end Sys2Proof.Machine
end

