-- ==== Sys2Proof/Machine/Ctr.lean ====
section
/-! DEFINITION. The CTR family of spec/44_ctr.md: the raw key (R190), the 128-bit big-endian counter (R191), the keystream (R192),
CTR_ENC and CTR_DEC (R193, R194). -/

namespace Sys2Proof.Machine

/-- R190: the raw key KB[0..KL) for KL in {16, 24, 32}; none is INVALID_KEY_LENGTH. -/
def ctrKey (kb : Bytes) (kl : Nat) : Option Bytes :=
  if isKeyLength kl then some (kb.take kl) else none

/-- R191: T_(j+1) = be_bytes_16(uint_be(T_j) + 1), modulo 2^128. -/
def nextCounter (t : Bytes) : Bytes := beBytes 16 (uintBe t + 1)

/-- R192: KS of `m` blocks, from the counter block `t` on. -/
def ctrKeystream (c : BlockCipher) (k : Bytes) : Nat → Bytes → Bytes
  | 0, _ => []
  | m + 1, t => c.enc k t ++ ctrKeystream c k m (nextCounter t)

/-- R192: `ctr_xcrypt(k, iv, D)`, which encrypts and decrypts. -/
def ctrXcrypt (c : BlockCipher) (k iv d : Bytes) : Bytes :=
  xorPrefix d (ctrKeystream c k ((d.length + 15) / 16) iv)

/-- R193's pseudocode. -/
def opCtrEnc (c : BlockCipher) (kb : Bytes) (kl : Nat) (p iv : Bytes) : Result :=
  match ctrKey kb kl with
  | none => .err .invalidKeyLength
  | some k =>
    if p.length = 0 then .err .emptyPlaintext
    else .ok (b64Encode (iv ++ ctrXcrypt c k iv (pad p 16)))

/-- R194's pseudocode. -/
def opCtrDec (q : Params) (c : BlockCipher) (kb : Bytes) (kl : Nat) (t : Bytes) : Result :=
  match ctrKey kb kl with
  | none => .err .invalidKeyLength
  | some k =>
    if t.length = 0 then .err .emptyInput
    else match b64Decode q t with
      | .err e => .err e
      | .ok x =>
        if x.length ≤ 16 then .err .tooShort
        else unpadStrict (ctrXcrypt c k (x.take 16) (x.drop 16))

/-- CTR_ENC reads its IV only after its checks (R111): not when it ends with INVALID_KEY_LENGTH or EMPTY_PLAINTEXT. -/
def ctrEncReadsIv (s : State) : Bool := isKeyLength (keyLength s) && decide (inLength s ≠ 0)

/-- CTR_DEC reads its text only when the key length is valid (R194). -/
def readsCtrDec (q : Params) (kl : Nat) (t : Bytes) (j : Nat) : Bool := isKeyLength kl && readsB64 q t j

/-- CTR_ENC (R193). -/
def execCtrEnc (s : State) : Host.Outcome State Fault Refusal :=
  checkInput s (if ctrEncReadsIv s then withIv s (fun t iv =>
      completeWith t readsAll (fun p => opCtrEnc fips197 (keyBuf t) (keyLength t) p iv))
    else completeWith s readsNone (fun p => opCtrEnc fips197 (keyBuf s) (keyLength s) p []))

/-- CTR_DEC (R194). -/
def execCtrDec (s : State) : Host.Outcome State Fault Refusal :=
  checkInput s (completeWith s (readsCtrDec s.cfg (keyLength s)) (opCtrDec s.cfg fips197 (keyBuf s) (keyLength s)))

end Sys2Proof.Machine
end

