-- ==== Sys2Proof/Machine/Ecb.lean ====
section
/-! DEFINITION. The ECB family of spec/43_ecb.md: the block transform (R170, R171), ECB_ENC and ECB_DEC with their legacy and typed
entry points (R172, R173; the shim is spec/40_dispatch.md R106). -/

namespace Sys2Proof.Machine

/-- R170: `ecb_encrypt(k, D)`, each block on its own. -/
def ecbEncrypt (c : BlockCipher) (k d : Bytes) : Bytes := (blocksOf d).flatMap (c.enc k)

/-- R171: `ecb_decrypt(k, C)`, each block on its own. -/
def ecbDecrypt (c : BlockCipher) (k x : Bytes) : Bytes := (blocksOf x).flatMap (c.dec k)

/-- R172's pseudocode. -/
def opEcbEnc (c : BlockCipher) (kb : Bytes) (kl : Nat) (p : Bytes) : Result :=
  .ok (hexEncode (ecbEncrypt c (normalize kb kl) (pad p 16)))

/-- R173's pseudocode. -/
def opEcbDec (c : BlockCipher) (kb : Bytes) (kl : Nat) (t : Bytes) : Result :=
  match hexDecode t with
  | .err e => .err e
  | .ok x =>
    if x.length = 0 then .err .emptyInput
    else if x.length % 16 ≠ 0 then .err .notBlockMultiple
    else .ok (unpadLenient (ecbDecrypt c (normalize kb kl) x))

/-- ECB_ENC (R172), its result through the shim (R106). -/
def execEcbEnc (typed : Bool) (s : State) : Host.Outcome State Fault Refusal :=
  checkInput s (completeWith s readsAll (fun p => collapse typed (opEcbEnc fips197 (keyBuf s) (keyLength s) p)))

/-- ECB_DEC (R173), its result through the shim (R106). -/
def execEcbDec (typed : Bool) (s : State) : Host.Outcome State Fault Refusal :=
  checkInput s (completeWith s readsHex (fun t => collapse typed (opEcbDec fips197 (keyBuf s) (keyLength s) t)))

end Sys2Proof.Machine
end

