-- ==== Sys2Proof/Machine/Dispatch.lean ====
section
/-! DEFINITION. The completion step of each command: spec/40_dispatch.md R103's match, with Collapse (R106) and Finish (R107)
inside each meaning. -/

namespace Sys2Proof.Machine

def exec (i : Instr) (s : State) : Host.Outcome State Fault Refusal :=
  match i with
  | .keynorm => Sys2Proof.Machine.execKeynorm s
  | .pad blksz => Sys2Proof.Machine.execPad blksz s
  | .unpadS => Sys2Proof.Machine.execUnpadS s
  | .unpadL => Sys2Proof.Machine.execUnpadL s
  | .cfbEnc => Sys2Proof.Machine.execCfbEnc s
  | .cfbDec => Sys2Proof.Machine.execCfbDec s
  | .ecbEnc typed => Sys2Proof.Machine.execEcbEnc typed s
  | .ecbDec typed => Sys2Proof.Machine.execEcbDec typed s
  | .ctrEnc => Sys2Proof.Machine.execCtrEnc s
  | .ctrDec => Sys2Proof.Machine.execCtrDec s
  | .hexEnc => Sys2Proof.Machine.execHexEnc s
  | .hexDec => Sys2Proof.Machine.execHexDec s
  | .b64Enc => Sys2Proof.Machine.execB64Enc s
  | .b64Dec => Sys2Proof.Machine.execB64Dec s

end Sys2Proof.Machine
end

