-- ==== Sys2Proof/Machine/HostPort.lean ====
section
/-! DEFINITION. The host port: which accesses are admitted (spec/20_memory.md R61), byte lanes (R62), what each region reads as
and does with a write (R64 to R68; spec/10_state.md R23 to R35). -/

namespace Sys2Proof.Machine

/-- n of R61, in bytes. -/
def Width.bytes : Width → Nat
  | .byte => 1
  | .half => 2
  | .word => 4

/-- The two conditions of R61: naturally aligned, and 4 bytes wide in 0x0000-0x00FF. -/
def admitted (addr : Addr) (n : Width) : Bool :=
  decide (addr.toNat % n.bytes = 0) && (decide (n.bytes = 4) || decide (0x00FF < addr.toNat))

/-! ### Reads -/

/-- ID: ASCII "AES", then version 1 (R23). -/
def idWord : Word := 0x41455301

/-- A read of the register range at a 4-byte-aligned offset (R23 to R31); 0x0024-0x00FF is unmapped and reads 0 (R65). -/
def readRegister (s : State) (offset : Nat) : Word :=
  if offset = 0x0000 then idWord
  else if offset = 0x0004 then s.ctrl
  else if offset = 0x0008 then s.cmd
  else if offset = 0x000C then s.status
  else if offset = 0x0010 then s.keyLen
  else if offset = 0x0014 then s.inLen
  else if offset = 0x0018 then s.outLen
  else if offset = 0x001C then BitVec.ofNat 32 s.cfg.ibufSize
  else if offset = 0x0020 then BitVec.ofNat 32 s.cfg.obufSize
  else 0

/-- A byte the spec leaves unspecified on a host read: a free value, fresh at each read and lane (U3, U4, U5; log 5). -/
def freeLane (s : State) (lane : Nat) : Byte := Config.freeByte s.fresh lane

/-- What lane `lane` of a host read carries for window address `a` above the register range: stored bytes (R64), an
unspecified value for an UNWRITTEN byte (R34, R35) and for OBUF while BUSY (R68), 0 where unmapped (R65). -/
def readLane (s : State) (a lane : Nat) : Byte :=
  match regionOf s.cfg a with
  | .keybuf | .ivbuf | .ibuf => (s.byteAt a).getD (freeLane s lane)
  | .obuf => if s.phase = .busy then freeLane s lane else (s.byteAt a).getD (freeLane s lane)
  | .registers | .unmapped => 0x00

/-- Byte j in data bits [8j+7 : 8j] (R62); the bits above the last byte are 0. -/
def littleEndian : Bytes → Word
  | [] => 0
  | b :: bs => b.setWidth 32 ||| (littleEndian bs <<< 8)

/-- Data bits [8j+7 : 8j] of a write (R62). -/
def dataByte (v : Word) (j : Nat) : Byte := v.extractLsb' (8 * j) 8

/-- The value of an admitted `MemRead(addr, n)`, zero-extended (R61, R62, R64). -/
def readValue (s : State) (addr : Addr) (n : Width) : Word :=
  if addr.toNat ≤ 0x00FF then readRegister s addr.toNat
  else littleEndian ((List.range n.bytes).map (fun j => readLane s (addr.toNat + j) j))

/-- `MemRead(addr, n)`: returns the value to the host and changes no state of the block (R66). -/
def hostRead (s : State) (addr : Addr) (n : Width) : Host.Outcome State Fault Refusal :=
  if admitted addr n then
    .next ((s.setHostReads (readValue s addr n :: s.hostReads)).setFresh (s.fresh + 1))
  else .fault .notAdmitted

/-! ### Writes -/

/-- A write that is ignored, and noted in BUSY_WR, while BUSY (R67, R101). -/
def unlessBusy (s : State) (t : State) : State :=
  if s.phase = .busy then noteBusyWrite s else t

/-- A 4-byte write to the register range (R24 to R31, R100, R101). ID, OUT_LEN, the size registers and the unmapped
offsets ignore it (R64, R65). -/
def writeRegister (s : State) (offset : Nat) (v : Word) : State :=
  if offset = 0x0004 then s.setCtrl (ctrlStored v)
  else if offset = 0x0008 then unlessBusy s (accept s v)
  else if offset = 0x000C then s.setStatus (statusAfterWrite s.status v)
  else if offset = 0x0010 then unlessBusy s (s.setKeyLen v)
  else if offset = 0x0014 then unlessBusy s (s.setInLen v)
  else s

/-- One byte lane of a write above the register range: stored in KEYBUF, IVBUF and IBUF unless BUSY, ignored in OBUF and
where unmapped (R64, R65, R67). -/
def writeLane (s : State) (a : Nat) (b : Byte) : State :=
  match regionOf s.cfg a with
  | .keybuf | .ivbuf | .ibuf => unlessBusy s (s.setMem (Memory.write s.mem a b))
  | .obuf | .registers | .unmapped => s

/-- Bytes at rising addresses, one lane each (R62). -/
def writeLanes (s : State) (a : Nat) : Bytes → State
  | [] => s
  | b :: bs => writeLanes (writeLane s a b) (a + 1) bs

/-- The n bytes of a write, the lowest lane first (R62). -/
def dataBytes (n : Width) (v : Word) : Bytes := (List.range n.bytes).map (dataByte v)

/-- `MemWrite(addr, n, v)` (R61, R64). -/
def hostWrite (s : State) (addr : Addr) (n : Width) (v : Word) : Host.Outcome State Fault Refusal :=
  if admitted addr n then
    .next (if addr.toNat ≤ 0x00FF then writeRegister s addr.toNat v else writeLanes s addr.toNat (dataBytes n v))
  else .fault .notAdmitted

end Sys2Proof.Machine
end

