-- ==== Sys2Proof/Machine/Agents.lean ====
section
/-! DEFINITION. The steps of the agents (spec/00_scope.md R5, spec/20_memory.md R70): the controller's turn (spec/40_dispatch.md
R102), the entropy source's offer (R105), the host's accesses and the reset input, and how one command word is put in
flight. -/

namespace Sys2Proof.Machine

/-- The controller's turn: with phase BUSY the completion step of the word in CMD (R102, R103), an illegal word
completing with ILLEGAL_COMMAND (R84); with phase IDLE there is none, and nothing changes. -/
def controllerTurn (s : State) : Host.Outcome State Fault Refusal :=
  match s.phase with
  | .idle => .next s
  | .busy =>
    match decode s.cmd with
    | .ok i => exec i s
    | .error _ => completeIllegal s

/-- One event of the schedule (R70). -/
def deliver (e : Event) (s : State) : Host.Outcome State Fault Refusal :=
  match e with
  | .hostRead addr n => hostRead s addr n
  | .hostWrite addr n v => hostWrite s addr n v
  | .offer draw => .next (s.setIvDraw (some draw))
  | .controller => controllerTurn s
  | .reset => .next (resetStep s)

/-- The draw on offer, or, where there is none, a draw under no law (R105; log 12). -/
def offeredDraw (s : State) : Draw :=
  match s.ivDraw with
  | some d => d
  | none => Vector.mk (Array.mk ((List.range 16).map Config.drawByte)) rfl

/-- The schedule with the controller's turn first: it is, when nothing is scheduled (R277). -/
def controllerFirst : List Event → List Event
  | [] => []
  | e :: rest => .controller :: e :: rest

/-- The word `w` accepted (R100), a draw on offer, and the controller's turn next. -/
def inFlight (s : State) (w : Word) : State :=
  ((accept s w).setIvDraw (some (offeredDraw s))).setSchedule (controllerFirst s.schedule)

end Sys2Proof.Machine
end

