-- ==== Sys2Proof/Machine/Step.lean ====
section
/-! DEFINITION. One step of the AESMC: the next event of the schedule, and with nothing scheduled the controller's turn
(spec/20_memory.md R70, spec/70_reset_and_hazards.md R277). -/

namespace Sys2Proof.Machine

/-- One indivisible step (R66, R69, R70). With no event scheduled the controller moves: an accepted command completes
(R277), and an idle block waits for a CMD write (R271). -/
def step (s : State) : Host.Outcome State Fault Refusal :=
  match s.schedule with
  | [] => controllerTurn s
  | e :: rest => deliver e (s.setSchedule rest)

/-- `s` with the command word of bits `w` in flight, so that the next step runs it: the block fetches no instructions
(R73); a command runs when its word was accepted and the controller has its turn (log 12). -/
def State.withFetchWord (s : State) (nbits w : Nat) : State :=
  inFlight s (BitVec.ofNat 32 (w % 2 ^ nbits))

end Sys2Proof.Machine
end

