-- ==== Sys2Proof/Safety.lean ====
section
/-! DEFINITION. What claims are stated in: the invariant every state of the block meets, when a step is safe, and what the next
event asks of the host and of the input. -/

namespace Sys2Proof.Machine

/-- The rules that hold of the block's state between any two steps. Each field cites its rule. -/
structure Inv (s : State) : Prop where
  /-- The parameters meet R3's constraints. -/
  legal : s.cfg.legal = true
  /-- Memory is in its canonical form. -/
  memWf : Memory.wf s.mem = true
  /-- Only bytes of the buffers are stored (R60, R65). -/
  memInBuffers : Memory.inBuffers s.cfg s.mem = true
  /-- "BUSY always equals (phase = BUSY)" (R26). -/
  busyIsPhase : statusBusy s.status = decide (s.phase = .busy)
  /-- STATUS[7:4] and [31:16] read as 0 (R26). -/
  statusReservedZero : s.status &&& statusReserved = 0
  /-- CTRL[31:2] reads as 0 (R24). -/
  ctrlReservedZero : ctrlStored s.ctrl = s.ctrl
  /-- While BUSY: DONE = 0, ERR = 0, ERRCODE = 0, OUT_LEN = 0 (R68). -/
  busyCleared : s.phase = .busy → statusDone s.status = false ∧ statusErr s.status = false
    ∧ statusErrCode s.status = 0 ∧ s.outLen = 0
  /-- Without ERR there is no error code (R26, R240). -/
  noErrorNoCode : statusErr s.status = false → statusErrCode s.status = 0
  /-- With ERR the code is one a command raises, never a reserved one (R241), and OUT_LEN = 0 (R240). -/
  errorHasCode : statusErr s.status = true → s.outLen = 0
    ∧ ∃ e, e ≠ .cipherConstruction ∧ e ≠ .decompressError ∧ statusErrCode s.status = errorCode e
  /-- OUT_LEN is the length of an output that OBUF holds (R29, R107). -/
  outLenFits : s.outLen.toNat ≤ s.cfg.obufSize
  /-- Every byte of OBUF[0..OUT_LEN) holds a value (R29, R35). -/
  outputWritten : ∀ j, j < s.outLen.toNat → (s.byteAt (obufBase + j)).isSome = true

/-- The step from `s` does not end in a fault. -/
def SafeStep (s : State) : Prop := ∀ r, step s ≠ .fault r

/-- Every byte of IBUF[0..IN_LEN) was written since the last reset (R274). -/
def inputWritten (s : State) : Bool :=
  (List.range (inLength s)).all (fun j => (s.byteAt (ibufBase + j)).isSome)

/-- The next event of the schedule is no access that R61 does not admit. -/
def nextAccessAdmitted (s : State) : Bool :=
  match s.schedule with
  | .hostRead addr n :: _ => admitted addr n
  | .hostWrite addr n _ :: _ => admitted addr n
  | _ => true

/-- The input of every command is P: IN_LEN is its length, at most IBUF_SIZE, and IBUF[0..IN_LEN) holds its bytes (R104). -/
def InputIs (s : State) (p : Bytes) : Prop :=
  inLength s = p.length ∧ p.length ≤ s.cfg.ibufSize ∧ ∀ j, j < p.length → s.byteAt (ibufBase + j) = some (p.getD j 0)

/-- The IV of the completion step is `iv` (R105): IVBUF with cur_ivsel = 1, else the draw on offer. -/
def IvIs (s : State) (iv : Bytes) : Prop :=
  (s.curIvsel = true ∧ iv = ivBuf s) ∨ (s.curIvsel = false ∧ ∃ d : Draw, s.ivDraw = some d ∧ iv = d.toList)

/-- R270's table, read off the state: every register 0, phase IDLE, the bytes of KEYBUF and IVBUF 0x00, those of IBUF and
OBUF UNWRITTEN, cur_ivsel 0, irq 0, and the three constants as they always are. -/
structure AfterReset (t : State) : Prop where
  phase : t.phase = .idle
  registers : t.ctrl = 0 ∧ t.cmd = 0 ∧ t.status = 0 ∧ t.keyLen = 0 ∧ t.inLen = 0 ∧ t.outLen = 0
  keybuf : ∀ j, j < 32 → t.byteAt (0x0100 + j) = some 0x00
  ivbuf : ∀ j, j < 16 → t.byteAt (0x0120 + j) = some 0x00
  ibuf : ∀ j, j < t.cfg.ibufSize → t.byteAt (0x4000 + j) = none
  obuf : ∀ j, j < t.cfg.obufSize → t.byteAt (0x8000 + j) = none
  curIvsel : t.curIvsel = false
  irq : t.irq = false
  constants : readRegister t 0x0000 = 0x41455301 ∧ readRegister t 0x001C = BitVec.ofNat 32 t.cfg.ibufSize
    ∧ readRegister t 0x0020 = BitVec.ofNat 32 t.cfg.obufSize

/-- Two states with the same operands for every command (R104, R110): KEY_LEN and the key bytes below it, IN_LEN and
IBUF[0..IN_LEN), the IV and its selection, and the parameters. Nothing else need agree. -/
structure SameOperands (s u : State) : Prop where
  cfg : u.cfg = s.cfg
  keyLen : u.keyLen = s.keyLen
  key : ∀ j, j < 32 → j < s.keyLen.toNat → u.byteAt (keybufBase + j) = s.byteAt (keybufBase + j)
  inLen : u.inLen = s.inLen
  input : ∀ j, j < s.inLen.toNat → u.byteAt (ibufBase + j) = s.byteAt (ibufBase + j)
  curIvsel : u.curIvsel = s.curIvsel
  iv : s.curIvsel = true → ivBuf u = ivBuf s
  draw : s.curIvsel = false → u.ivDraw = s.ivDraw

/-- An Ok completion from `s` to `t` with output `out`, whole (R107, R240, R41): OBUF[0..len(out)) = out and the rest of
the window's bytes as before, OUT_LEN = len(out), DONE = 1, ERR = 0, ERRCODE = 0, BUSY = 0, phase IDLE, BUSY_WR and
every other register unchanged. -/
structure CompletesOk (s t : State) (out : Bytes) : Prop where
  fits : out.length ≤ s.cfg.obufSize
  output : ∀ j, j < out.length → t.byteAt (obufBase + j) = some (out.getD j 0)
  otherBytes : ∀ a, ¬(obufBase ≤ a ∧ a < obufBase + out.length) → t.byteAt a = s.byteAt a
  outLen : t.outLen = BitVec.ofNat 32 out.length
  busy : statusBusy t.status = false
  done : statusDone t.status = true
  err : statusErr t.status = false
  errCode : statusErrCode t.status = 0
  busyWr : statusBusyWr t.status = statusBusyWr s.status
  otherStatus : t.status &&& statusReserved = s.status &&& statusReserved
  phase : t.phase = .idle
  registers : t.ctrl = s.ctrl ∧ t.cmd = s.cmd ∧ t.keyLen = s.keyLen ∧ t.inLen = s.inLen ∧ t.curIvsel = s.curIvsel
  others : t.cfg = s.cfg ∧ t.schedule = s.schedule ∧ t.hostReads = s.hostReads ∧ t.fresh = s.fresh

/-- An error completion from `s` to `t` with error `e`, whole (R107, R240, R245, R41): OBUF unspecified, every other byte
as before, OUT_LEN = 0, DONE = 1, ERR = 1, ERRCODE = code(e), BUSY = 0, phase IDLE, all else unchanged. -/
structure CompletesErr (s t : State) (e : ErrorName) : Prop where
  unspecified : ∀ j, j < s.cfg.obufSize → t.byteAt (obufBase + j) = none
  otherBytes : ∀ a, ¬(obufBase ≤ a ∧ a < obufBase + s.cfg.obufSize) → t.byteAt a = s.byteAt a
  outLen : t.outLen = 0
  busy : statusBusy t.status = false
  done : statusDone t.status = true
  err : statusErr t.status = true
  errCode : statusErrCode t.status = errorCode e
  busyWr : statusBusyWr t.status = statusBusyWr s.status
  otherStatus : t.status &&& statusReserved = s.status &&& statusReserved
  phase : t.phase = .idle
  registers : t.ctrl = s.ctrl ∧ t.cmd = s.cmd ∧ t.keyLen = s.keyLen ∧ t.inLen = s.inLen ∧ t.curIvsel = s.curIvsel
  others : t.cfg = s.cfg ∧ t.schedule = s.schedule ∧ t.hostReads = s.hostReads ∧ t.fresh = s.fresh

/-- The completion from `s` to `t` with the result `r` of the command's function, after the shim (R107): an Ok output
longer than OBUF is OUTPUT_OVERFLOW. -/
def Completes (s t : State) (r : Result) : Prop :=
  match r with
  | .ok out => if out.length ≤ s.cfg.obufSize then CompletesOk s t out else CompletesErr s t .outputOverflow
  | .err e => CompletesErr s t e

end Sys2Proof.Machine
end

