-- ==== Sys2Proof/Certificates/Slice0/Obligations.lean ====
section
/-! DEFINITION. The statements for the provers, each with the rule of spec/ it formalises. `InputIs`, `IvIs`, `CompletesOk`,
`CompletesErr`, `Completes` and `Inv` are defined in Sys2Proof/Safety.lean. -/

open Sys2Proof Sys2Proof.Machine

/-! ### Encoding (spec/30_encoding.md) -/

/-- O1. Words written out from R82's patterns decode to the commands they stand for, and words R84 calls illegal to none. -/
def Obligations.EncodingTableWordsDecode : Prop :=
  decode 0x00000001 = .ok .keynorm ∧ decode 0x00001002 = .ok (.pad 16) ∧ decode 0x00000003 = .ok .unpadS
    ∧ decode 0x00000010 = .ok .cfbEnc ∧ decode 0x00010013 = .ok (.ecbDec true) ∧ decode 0x00000012 = .ok (.ecbEnc false)
    ∧ decode 0x00000015 = .ok .ctrDec ∧ decode 0x00000022 = .ok .b64Enc
    ∧ decode 0x00000030 = .error .reservedOp ∧ decode 0x00000110 = .error .reservedField
    ∧ decode 0x00010002 = .error .reservedField ∧ decode 0x80000001 = .error .reservedField

/-- O2. Decoding the word of a well-formed command gives the command back: no bit of an encoding is dropped. -/
def Obligations.DecodeOfEncodeIsIdentity : Prop :=
  ∀ i : Instr, i.wellFormed = true → decode (encode i) = .ok i

/-- O3. A legal word is the encoding of the command it decodes to, and that command is well-formed: one word, one meaning. -/
def Obligations.EncodeOfDecodeIsIdentity : Prop :=
  ∀ (w : Word) (i : Instr), decode w = .ok i → encode i = w ∧ i.wellFormed = true

/-- O4. R83 whole: a word is legal when some row of R82's table has (w AND mask) = match; at most one row does; the decoded
command is that row's mnemonic, with blksz = w[15:8] for PAD and typed = w[16] for the ECB commands. -/
def Obligations.DecodeIsTheOpcodeTable : Prop :=
  (∀ (w : Word) (r r' : OpcodeRow), r ∈ opcodeRows → r' ∈ opcodeRows → r.hasWord w = true → r'.hasWord w = true → r = r')
  ∧ (∀ (w : Word) (r : OpcodeRow), r ∈ opcodeRows → r.hasWord w = true →
      ∃ i, decode w = .ok i ∧ i.mnemonic = r.mnemonic)
  ∧ (∀ (w : Word) (i : Instr), decode w = .ok i →
      (∃ r, r ∈ opcodeRows ∧ r.hasWord w = true ∧ r.mnemonic = i.mnemonic)
      ∧ (∀ b, i = .pad b → b = (w.extractLsb' 8 8).toNat)
      ∧ (∀ t, i = .ecbEnc t ∨ i = .ecbDec t → t = w.getLsbD 16))

/-! ### The step -/

/-- O5. A step runs the decoded command: with phase BUSY and the controller's turn next, or nothing scheduled, the step is
exec of the command that the word in CMD decodes to, on the state without the event just taken. -/
def Obligations.StepRunsTheDecodedCommand : Prop :=
  ∀ (s : State) (i : Instr), s.phase = .busy → decode s.cmd = .ok i → i.wellFormed = true →
    (∀ rest, s.schedule = .controller :: rest → step s = exec i (s.setSchedule rest))
    ∧ (s.schedule = [] → step s = exec i s)

/-- O6. R84: an illegal word completes with ERR = 1 and ILLEGAL_COMMAND, reads no input (IBUF may be UNWRITTEN and IN_LEN
anything), writes no output, and is never collapsed to a sentinel; with the controller's turn next, or nothing scheduled. -/
def Obligations.IllegalWordCompletesWithIllegalCommand : Prop :=
  ∀ (s : State) (e : Illegal), s.phase = .busy → decode s.cmd = .error e →
    (∀ rest, s.schedule = .controller :: rest →
      ∃ t, step s = .next t ∧ CompletesErr (s.setSchedule rest) t .illegalCommand ∧ t.ivDraw = s.ivDraw)
    ∧ (s.schedule = [] → ∃ t, step s = .next t ∧ CompletesErr s t .illegalCommand ∧ t.ivDraw = s.ivDraw)

/-- O7. After reset the block waits in IDLE for a CMD write (R271): without one, the controller's turn changes nothing. -/
def Obligations.IdleControllerChangesNothing : Prop :=
  ∀ s : State, s.phase = .idle →
    (s.schedule = [] → step s = .next s)
    ∧ (∀ rest, s.schedule = .controller :: rest → step s = .next (s.setSchedule rest))

/-- O8. The state after reset meets the invariant. -/
def Obligations.ResetMeetsTheInvariant : Prop := Inv State.reset

/-- O9. Every step keeps the invariant: legal parameters, canonical memory holding only bytes of the buffers, STATUS.BUSY
equal to the phase (R26), reserved bits zero (R24, R26), the values of R68 while BUSY, only raised error codes (R241),
and OUT_LEN the length of an output that OBUF holds. -/
def Obligations.StepKeepsTheInvariant : Prop :=
  ∀ s t : State, Inv s → step s = .next t → Inv t

/-- O10. R270 whole, for a reset in either phase and for the state after power-on: every register 0, phase IDLE (a command in
flight is aborted, and nothing of it is written), KEYBUF and IVBUF zeroed, IBUF and OBUF UNWRITTEN, cur_ivsel 0, irq 0, and
the constants unchanged. -/
def Obligations.ResetSetsEveryRegister : Prop :=
  (∀ (s : State) (rest : List Event), s.schedule = .reset :: rest →
    ∃ t, step s = .next t ∧ t.cfg = s.cfg ∧ t.schedule = rest ∧ AfterReset t)
  ∧ AfterReset State.reset

/-! ### Host writes -/

/-- O11. R100 whole: a write of w to CMD while IDLE accepts it, legal or illegal, and changes nothing else. -/
def Obligations.CmdWriteWhileIdleAccepts : Prop :=
  ∀ (s : State) (w : Word) (rest : List Event), s.phase = .idle → s.schedule = .hostWrite 0x0008 .word w :: rest →
    ∃ t, step s = .next t ∧ t.cmd = w ∧ t.curIvsel = s.ctrl.getLsbD 1 ∧ t.outLen = 0 ∧ statusBusy t.status = true
      ∧ statusDone t.status = false ∧ statusErr t.status = false ∧ statusErrCode t.status = 0 ∧ t.phase = .busy
      ∧ statusBusyWr t.status = statusBusyWr s.status ∧ t.ctrl = s.ctrl ∧ t.keyLen = s.keyLen ∧ t.inLen = s.inLen
      ∧ t.mem = s.mem ∧ t.ivDraw = s.ivDraw ∧ t.cfg = s.cfg ∧ t.schedule = rest ∧ t.hostReads = s.hostReads
      ∧ t.status &&& statusReserved = s.status &&& statusReserved

/-- O12. R101 and R67: while BUSY, an admitted write to CMD, KEY_LEN, IN_LEN, KEYBUF, IVBUF or IBUF is ignored and sets
STATUS.BUSY_WR; nothing else of the block changes. -/
def Obligations.WriteWhileBusyIsIgnoredAndNoted : Prop :=
  ∀ (s : State) (addr : Addr) (n : Width) (v : Word) (rest : List Event), s.phase = .busy → s.cfg.legal = true →
    s.schedule = .hostWrite addr n v :: rest → admitted addr n = true →
    (addr = 0x0008 ∨ addr = 0x0010 ∨ addr = 0x0014 ∨ (0x0100 ≤ addr.toNat ∧ addr.toNat < 0x0130)
      ∨ (0x4000 ≤ addr.toNat ∧ addr.toNat < 0x4000 + s.cfg.ibufSize)) →
    ∃ t, step s = .next t ∧ statusBusyWr t.status = true ∧ statusBusy t.status = statusBusy s.status
      ∧ statusDone t.status = statusDone s.status ∧ statusErr t.status = statusErr s.status
      ∧ statusErrCode t.status = statusErrCode s.status
      ∧ t.status &&& statusReserved = s.status &&& statusReserved
      ∧ t = (s.setSchedule rest).setStatus t.status

/-- O13. R26's W1C: a write of v to STATUS, in either phase, clears DONE where v[1] = 1 and BUSY_WR where v[3] = 1, ignores
every other bit of v, and never sets BUSY_WR; so ERR and ERRCODE survive an acknowledge (R246). -/
def Obligations.StatusWriteClearsDoneAndBusyWr : Prop :=
  ∀ (s : State) (v : Word) (rest : List Event), s.schedule = .hostWrite 0x000C .word v :: rest →
    ∃ t, step s = .next t ∧ statusDone t.status = (statusDone s.status && !v.getLsbD 1)
      ∧ statusBusyWr t.status = (statusBusyWr s.status && !v.getLsbD 3) ∧ statusBusy t.status = statusBusy s.status
      ∧ statusErr t.status = statusErr s.status ∧ statusErrCode t.status = statusErrCode s.status
      ∧ t.status &&& statusReserved = s.status &&& statusReserved
      ∧ t = (s.setSchedule rest).setStatus t.status

/-- O14. R24: a write of v to CTRL, in either phase, takes IRQ_EN and IV_FIXED from v[0] and v[1] and ignores the reserved
bits, which read as 0; the IV selection of a command in flight stays. -/
def Obligations.CtrlWriteTakesTwoBits : Prop :=
  ∀ (s : State) (v : Word) (rest : List Event), s.schedule = .hostWrite 0x0004 .word v :: rest →
    ∃ t, step s = .next t ∧ (∀ j, t.ctrl.getLsbD j = (decide (j < 2) && v.getLsbD j))
      ∧ t.curIvsel = s.curIvsel ∧ t = (s.setSchedule rest).setCtrl t.ctrl

/-- O15. R27, R28: KEY_LEN and IN_LEN take any 32-bit value while IDLE, and nothing else changes. -/
def Obligations.LengthWritesStoreAnyValue : Prop :=
  ∀ (s : State) (v : Word) (rest : List Event), s.phase = .idle →
    (s.schedule = .hostWrite 0x0010 .word v :: rest → step s = .next ((s.setSchedule rest).setKeyLen v))
    ∧ (s.schedule = .hostWrite 0x0014 .word v :: rest → step s = .next ((s.setSchedule rest).setInLen v))

/-- O16. R62 and R64: while IDLE an admitted write of n bytes to KEYBUF, IVBUF or IBUF stores data bits [8j+7 : 8j] in window
byte addr+j, changes no other byte, and no register. -/
def Obligations.BufferWriteStoresLittleEndianBytes : Prop :=
  ∀ (s : State) (addr : Addr) (n : Width) (v : Word) (rest : List Event), s.phase = .idle → s.cfg.legal = true →
    s.schedule = .hostWrite addr n v :: rest → admitted addr n = true →
    ((0x0100 ≤ addr.toNat ∧ addr.toNat < 0x0130) ∨ (0x4000 ≤ addr.toNat ∧ addr.toNat < 0x4000 + s.cfg.ibufSize)) →
    ∃ t, step s = .next t ∧ t = (s.setSchedule rest).setMem t.mem
      ∧ (∀ j, j < n.bytes → t.byteAt (addr.toNat + j) = some (v.extractLsb' (8 * j) 8))
      ∧ (∀ a, ¬(addr.toNat ≤ a ∧ a < addr.toNat + n.bytes) → t.byteAt a = s.byteAt a)

/-- O17. R62's mixed widths: a 4-byte write to a buffer and the four 1-byte writes of its bytes leave the same state. -/
def Obligations.WordWriteIsFourByteWrites : Prop :=
  ∀ (s : State) (addr : Addr) (v : Word), s.schedule = [] → s.cfg.legal = true → addr.toNat % 4 = 0 →
    0x0100 ≤ addr.toNat → addr.toNat < 0x8000 →
    ∃ t, step (s.setSchedule [.hostWrite addr .word v]) = .next t
      ∧ Host.Core.run Sys2Proof.core 4 (s.setSchedule
          [.hostWrite addr .byte (v.extractLsb' 0 8 |>.setWidth 32), .hostWrite (addr + 1) .byte (v.extractLsb' 8 8 |>.setWidth 32),
           .hostWrite (addr + 2) .byte (v.extractLsb' 16 8 |>.setWidth 32),
           .hostWrite (addr + 3) .byte (v.extractLsb' 24 8 |>.setWidth 32)]) = .next t

/-- O18. R65, R64, R35: an admitted write to an unmapped address, to OBUF, or to ID, OUT_LEN, IBUF_SIZE or OBUF_SIZE changes
nothing and never sets BUSY_WR, in either phase. -/
def Obligations.ReadOnlyAndUnmappedWritesAreIgnored : Prop :=
  ∀ (s : State) (addr : Addr) (n : Width) (v : Word) (rest : List Event), s.cfg.legal = true →
    s.schedule = .hostWrite addr n v :: rest → admitted addr n = true →
    (addr = 0x0000 ∨ addr = 0x0018 ∨ addr = 0x001C ∨ addr = 0x0020 ∨ (0x0024 ≤ addr.toNat ∧ addr.toNat < 0x0100)
      ∨ (0x0130 ≤ addr.toNat ∧ addr.toNat < 0x4000) ∨ (0x4000 + s.cfg.ibufSize ≤ addr.toNat)) →
    step s = .next (s.setSchedule rest)

/-! ### Host reads -/

/-- O19. R66: an admitted read changes no state of the block; it hands the host one value. -/
def Obligations.ReadHasNoSideEffect : Prop :=
  ∀ (s : State) (addr : Addr) (n : Width) (rest : List Event), s.schedule = .hostRead addr n :: rest →
    admitted addr n = true →
    ∃ t v, step s = .next t ∧ t.hostReads = v :: s.hostReads
      ∧ t = ((s.setSchedule rest).setHostReads (v :: s.hostReads)).setFresh (s.fresh + 1)

/-- O20. R23 to R31, R64: what a 4-byte read of each register returns; 0 from the unmapped offsets up to 0x00FF (R65). -/
def Obligations.RegisterReadsReturnTheRegisters : Prop :=
  ∀ (s : State) (addr : Addr) (rest : List Event), s.schedule = .hostRead addr .word :: rest →
    addr.toNat % 4 = 0 → addr.toNat < 0x0100 →
    ∃ t v, step s = .next t ∧ t.hostReads = v :: s.hostReads
      ∧ (addr = 0x0000 → v = 0x41455301) ∧ (addr = 0x0004 → v = s.ctrl) ∧ (addr = 0x0008 → v = s.cmd)
      ∧ (addr = 0x000C → v = s.status) ∧ (addr = 0x0010 → v = s.keyLen) ∧ (addr = 0x0014 → v = s.inLen)
      ∧ (addr = 0x0018 → v = s.outLen) ∧ (addr = 0x001C → v = BitVec.ofNat 32 s.cfg.ibufSize)
      ∧ (addr = 0x0020 → v = BitVec.ofNat 32 s.cfg.obufSize) ∧ (0x0024 ≤ addr.toNat → v = 0)

/-- O21. R62, R64, R65, R68 for reads above the register range: window byte addr+j comes in data bits [8j+7 : 8j]; KEYBUF,
IVBUF and IBUF give the stored byte, OBUF gives it when IDLE, an unmapped byte reads 0. Nothing is said of an
UNWRITTEN byte, or of OBUF while BUSY: such a byte is any value. -/
def Obligations.BufferReadsReturnStoredBytes : Prop :=
  ∀ (s : State) (addr : Addr) (n : Width) (rest : List Event), s.schedule = .hostRead addr n :: rest →
    s.cfg.legal = true → admitted addr n = true → 0x0100 ≤ addr.toNat →
    ∃ t v, step s = .next t ∧ t.hostReads = v :: s.hostReads ∧ (∀ j, 8 * n.bytes ≤ j → v.getLsbD j = false)
      ∧ ∀ j, j < n.bytes →
        (∀ b, addr.toNat + j < 0x8000 ∨ s.phase = .idle → s.byteAt (addr.toNat + j) = some b →
          regionOf s.cfg (addr.toNat + j) ≠ .unmapped → v.extractLsb' (8 * j) 8 = b)
        ∧ (regionOf s.cfg (addr.toNat + j) = .unmapped → v.extractLsb' (8 * j) 8 = 0)

/-- O22. R70: "Every read returns the value left by the last step before it that wrote that location." A buffer word written
while IDLE and read next is read back. -/
def Obligations.WriteThenReadReturnsTheValue : Prop :=
  ∀ (s : State) (addr : Addr) (v : Word) (rest : List Event), s.phase = .idle → s.cfg.legal = true →
    s.schedule = .hostWrite addr .word v :: .hostRead addr .word :: rest → addr.toNat % 4 = 0 →
    ((0x0100 ≤ addr.toNat ∧ addr.toNat < 0x0130) ∨ (0x4000 ≤ addr.toNat ∧ addr.toNat < 0x4000 + s.cfg.ibufSize)) →
    ∃ t, Host.Core.run Sys2Proof.core 2 s = .next t ∧ t.hostReads = v :: s.hostReads ∧ t.schedule = rest

/-- O23. R61: an access is admitted when it is naturally aligned and, if it touches 0x0000-0x00FF, 4 bytes wide; the host has
no step for any other (the model's `notAdmitted`), and never that fault for an admitted one. -/
def Obligations.OnlyAdmittedAccessesHaveAStep : Prop :=
  ∀ (s : State) (addr : Addr) (n : Width) (v : Word) (rest : List Event),
    s.schedule = .hostRead addr n :: rest ∨ s.schedule = .hostWrite addr n v :: rest →
    (step s = .fault .notAdmitted ↔ ¬(addr.toNat % n.bytes = 0 ∧ (addr.toNat ≤ 0x00FF → n = .word)))
    ∧ ((addr.toNat % n.bytes = 0 ∧ (addr.toNat ≤ 0x00FF → n = .word)) → ∃ t, step s = .next t)

/-! ### Interrupt -/

/-- O24. R244 over a whole exchange: irq is IRQ_EN AND DONE; it rises with the completion of any command, Ok or error, when
IRQ_EN = 1; an acknowledge, the next accept, a reset or IRQ_EN = 0 lowers it. -/
def Obligations.IrqFollowsDoneAndEnable : Prop :=
  (∀ s : State, s.irq = (s.ctrl.getLsbD 0 && s.status.getLsbD 1))
  ∧ (∀ s t : State, s.phase = .busy → (s.schedule = [] ∨ ∃ rest, s.schedule = .controller :: rest) → step s = .next t →
      t.phase = .idle → t.irq = s.ctrl.getLsbD 0)
  ∧ (∀ (s : State) (rest : List Event) (v : Word), s.schedule = .hostWrite 0x000C .word v :: rest →
      v.getLsbD 1 = true → ∃ t, step s = .next t ∧ t.irq = false)
  ∧ (∀ (s : State) (rest : List Event) (w : Word), s.phase = .idle → s.schedule = .hostWrite 0x0008 .word w :: rest →
      ∃ t, step s = .next t ∧ t.irq = false)
  ∧ (∀ (s : State) (rest : List Event) (v : Word), s.schedule = .hostWrite 0x0004 .word v :: rest →
      v.getLsbD 0 = false → ∃ t, step s = .next t ∧ t.irq = false)
  ∧ (∀ (s : State) (rest : List Event), s.schedule = .reset :: rest → ∃ t, step s = .next t ∧ t.irq = false)

/-! ### Completion: what every command leaves alone, and its two outcomes -/

/-- O25. R41, the frame of all fourteen commands: a completion writes only OBUF, OUT_LEN, STATUS (BUSY, DONE, ERR, ERRCODE) and
phase; CTRL, CMD, KEY_LEN, IN_LEN, KEYBUF, IVBUF, IBUF, cur_ivsel, BUSY_WR, the reserved bits and the parameters stay, and
every byte of the window outside OBUF reads as before. The model's choice (log 4): the draw on offer stays, but for a
CFB_ENC or CTR_ENC with cur_ivsel = 0, which may take it. -/
def Obligations.CompletionWritesOnlyItsResults : Prop :=
  ∀ (i : Instr) (s t : State), exec i s = .next t →
    t.ctrl = s.ctrl ∧ t.cmd = s.cmd ∧ t.keyLen = s.keyLen ∧ t.inLen = s.inLen ∧ t.curIvsel = s.curIvsel ∧ t.cfg = s.cfg
      ∧ t.schedule = s.schedule ∧ t.hostReads = s.hostReads ∧ t.fresh = s.fresh
      ∧ statusBusyWr t.status = statusBusyWr s.status ∧ t.status &&& statusReserved = s.status &&& statusReserved
      ∧ (∀ a, ¬(obufBase ≤ a ∧ a < obufBase + s.cfg.obufSize) → t.byteAt a = s.byteAt a)
      ∧ (t.ivDraw = s.ivDraw ∨ ((i = .cfbEnc ∨ i = .ctrEnc) ∧ s.curIvsel = false ∧ t.ivDraw = none))

/-- O26. R240: a command ends in exactly one of two ways, or it waits for a draw and nothing changes (R105, only CFB_ENC and
CTR_ENC with cur_ivsel = 0 and no draw on offer). An Ok completion leaves OBUF beyond the output as it was (R107). -/
def Obligations.CommandEndsInOneOfTwoWays : Prop :=
  ∀ (i : Instr) (s t : State), exec i s = .next t →
    (t = s ∧ (i = .cfbEnc ∨ i = .ctrEnc) ∧ s.curIvsel = false ∧ s.ivDraw = none)
    ∨ ((∃ out, CompletesOk s t out) ∧ ∀ e, ¬CompletesErr s t e)
    ∨ (∃ e, CompletesErr s t e ∧ e ≠ .cipherConstruction ∧ e ≠ .decompressError ∧ (∀ out, ¬CompletesOk s t out)
        ∧ ∀ e', CompletesErr s t e' → e' = e)

/-- O27. R103, R28: with IN_LEN > IBUF_SIZE every command except KEYNORM completes with INPUT_OVERFLOW, before any error of its
own, reading no input and no draw; the legacy ECB entry points do not collapse it (R106). -/
def Obligations.LongInputCompletesWithInputOverflow : Prop :=
  ∀ (i : Instr) (s : State), i ≠ .keynorm → s.cfg.ibufSize < s.inLen.toNat →
    ∃ t, exec i s = .next t ∧ CompletesErr s t .inputOverflow ∧ t.ivDraw = s.ivDraw

/-- O28. R4: no command in flight with IN_LEN ≤ IBUF_SIZE raises OUTPUT_OVERFLOW when OBUF_SIZE ≥ max(2·IBUF_SIZE + 32, IBUF_SIZE + 255). -/
def Obligations.LargeEnoughObufNeverOverflows : Prop :=
  ∀ (i : Instr) (s t : State), i.wellFormed = true → s.cfg.legal = true → s.phase = .busy → s.inLen.toNat ≤ s.cfg.ibufSize →
    2 * s.cfg.ibufSize + 32 ≤ s.cfg.obufSize → s.cfg.ibufSize + 255 ≤ s.cfg.obufSize → exec i s = .next t →
    ¬CompletesErr s t .outputOverflow

/-- O29. R106's shim: with TYPED = 0 exactly the four errors of the ECB transform become the empty output; with TYPED = 1
nothing is collapsed; an Ok result is never changed. -/
def Obligations.ShimCollapsesOnlyEcbErrors : Prop :=
  (∀ out typed, collapse typed (.ok out) = .ok out) ∧ (∀ e, collapse true (.err e) = .err e)
  ∧ (∀ e, collapse false (.err e) = .ok [] ↔ (e = .decodeError ∨ e = .emptyInput ∨ e = .notBlockMultiple
      ∨ e = .cipherConstruction))
  ∧ (∀ e, collapse false (.err e) ≠ .ok [] → collapse false (.err e) = .err e)

/-! ### Key normalizer and padding (spec/41_key_padding.md) -/

/-- O30. R131, R130: KEYNORM writes 16 bytes, byte i being KEYBUF[i] for i < KEY_LEN and 0x00 beyond, whatever IN_LEN and IBUF
hold. -/
def Obligations.KeynormWritesTheNormalizedKey : Prop :=
  decode 0x00000001 = .ok .keynorm ∧
  ∀ s : State, s.cfg.legal = true →
    ∃ t out, exec .keynorm s = .next t ∧ CompletesOk s t out ∧ t.ivDraw = s.ivDraw ∧ out.length = 16
      ∧ ∀ j, j < 16 → if j < s.keyLen.toNat then s.byteAt (0x0100 + j) = some (out.getD j 0) else out.getD j 0 = 0

/-- O31. R133, R132: PAD appends p = b - (len(P) mod b) bytes of value p; BLKSZ = 0 is INVALID_BLOCK_SIZE. That no input byte
need be written for BLKSZ = 0 is the model's reading of which bytes a command reads (log 6). -/
def Obligations.PadAppendsThePadValue : Prop :=
  (∀ b : Fin 256, decode (BitVec.ofNat 32 (256 * b.val + 2)) = .ok (.pad b.val))
  ∧ (∀ s : State, s.inLen.toNat ≤ s.cfg.ibufSize →
      ∃ t, exec (.pad 0) s = .next t ∧ CompletesErr s t .invalidBlockSize ∧ t.ivDraw = s.ivDraw)
  ∧ (∀ (s : State) (p : Bytes) (b : Nat), InputIs s p → 1 ≤ b → b ≤ 255 →
      ∃ t n, exec (.pad b) s = .next t ∧ t.ivDraw = s.ivDraw ∧ 1 ≤ n ∧ n ≤ b ∧ (p.length + n) % b = 0
        ∧ Completes s t (.ok (p ++ List.replicate n (BitVec.ofNat 8 n))))

/-- O32. R135, R134: UNPAD_S gives q where P = q ++ rep(n, n) with 1 ≤ n ≤ 16, and INVALID_PADDING where P has no such form:
P empty, last byte 0, above 16 or above the length, or a wrong pad byte. -/
def Obligations.UnpadStrictVerifiesThePad : Prop :=
  decode 0x00000003 = .ok .unpadS ∧
  ∀ (s : State) (p : Bytes), InputIs s p →
    (∀ (q : Bytes) (n : Nat), 1 ≤ n → n ≤ 16 → p = q ++ List.replicate n (BitVec.ofNat 8 n) →
      ∃ t, exec .unpadS s = .next t ∧ Completes s t (.ok q) ∧ t.ivDraw = s.ivDraw)
    ∧ ((∀ (q : Bytes) (n : Nat), 1 ≤ n → n ≤ 16 → p ≠ q ++ List.replicate n (BitVec.ofNat 8 n)) →
      ∃ t, exec .unpadS s = .next t ∧ CompletesErr s t .invalidPadding ∧ t.ivDraw = s.ivDraw)

/-- O33. R137, R136: UNPAD_L trims as many bytes as the last byte says, returns P unchanged where that is more than its length,
checks no byte, has no ceiling, and never fails; of the empty P it gives the empty output. -/
def Obligations.UnpadLenientTrims : Prop :=
  decode 0x00000004 = .ok .unpadL ∧
  ∀ (s : State) (p : Bytes), InputIs s p →
    (p = [] → ∃ t, exec .unpadL s = .next t ∧ Completes s t (.ok []) ∧ t.ivDraw = s.ivDraw)
    ∧ (∀ (q : Bytes) (x : Byte), p = q ++ [x] →
      ∃ t, exec .unpadL s = .next t ∧ t.ivDraw = s.ivDraw
        ∧ Completes s t (.ok (if p.length < x.toNat then p else p.take (p.length - x.toNat))))

/-- O34. R139 whole, (a) to (f). -/
def Obligations.PaddingLaws : Prop :=
  ∀ (d : Bytes) (b : Nat), 1 ≤ b → b ≤ 255 →
    (pad d b).length % b = 0 ∧ 1 ≤ (pad d b).length - d.length ∧ (pad d b).length - d.length ≤ b
    ∧ unpadLenient (pad d b) = d
    ∧ (b ≤ 16 → unpadStrict (pad d b) = .ok d)
    ∧ (16 < b → 16 < b - d.length % b → unpadStrict (pad d b) = .err .invalidPadding)
    ∧ (∀ x, unpadStrict d = .ok x → unpadLenient d = x)
    ∧ (∀ v : Byte, v = 0x00 ∨ 0x10 < v.toNat → unpadStrict ((pad d 16).dropLast ++ [v]) = .err .invalidPadding)

/-! ### CFB (spec/42_cfb.md) -/

/-- O35. R150, R151 block by block, for every cipher that gives 16-byte blocks: byte 16j+i of the output is that byte of the
input xored with byte i of AES_Enc of the previous ciphertext block, the first being the IV; the length stays. -/
def Obligations.CfbChainsCiphertextBlocks : Prop :=
  ∀ (c : BlockCipher) (k iv d : Bytes), c.Lawful → isKeyLength k.length = true → iv.length = 16 →
    (cfbEncrypt c k iv d).length = d.length ∧ (cfbDecrypt c k iv d).length = d.length
    ∧ ∀ j i, i < 16 → 16 * j + i < d.length →
      (cfbEncrypt c k iv d).getD (16 * j + i) 0 = d.getD (16 * j + i) 0
        ^^^ (c.enc k (((iv ++ cfbEncrypt c k iv d).drop (16 * j)).take 16)).getD i 0
      ∧ (cfbDecrypt c k iv d).getD (16 * j + i) 0 = d.getD (16 * j + i) 0
        ^^^ (c.enc k (((iv ++ d).drop (16 * j)).take 16)).getD i 0

/-- O36. R152: CFB_ENC writes hex of the IV and the CFB encryption under the normalized key, with no padding and no error of its
own, OUT_LEN = 2·(16 + len(P)) characters. That the completion takes the draw on offer when cur_ivsel = 0, and leaves it
otherwise, is the model's choice (log 4). -/
def Obligations.CfbEncWritesTheEnvelope : Prop :=
  decode 0x00000010 = .ok .cfbEnc ∧
  ∀ (s : State) (p iv : Bytes), InputIs s p → IvIs s iv →
    ∃ t out, exec .cfbEnc s = .next t ∧ Completes s t (.ok out) ∧ t.ivDraw = (if s.curIvsel then s.ivDraw else none)
      ∧ out = hexEncode (iv ++ cfbEncrypt fips197 (normalize (keyBuf s) (keyLength s)) iv p)
      ∧ out.length = 2 * (16 + p.length)

/-- O37. R153: CFB_DEC reports DECODE_ERROR for text that is no hex, TOO_SHORT for fewer than 16 decoded bytes, and else writes
the CFB decryption of the body under the normalized key and the IV in front; exactly 16 bytes give the empty output. -/
def Obligations.CfbDecOpensTheEnvelope : Prop :=
  decode 0x00000011 = .ok .cfbDec ∧
  ∀ (s : State) (p : Bytes), InputIs s p →
    (hexDecode p = .err .decodeError → ∃ t, exec .cfbDec s = .next t ∧ CompletesErr s t .decodeError ∧ t.ivDraw = s.ivDraw)
    ∧ (∀ x, hexDecode p = .ok x → x.length < 16 →
      ∃ t, exec .cfbDec s = .next t ∧ CompletesErr s t .tooShort ∧ t.ivDraw = s.ivDraw)
    ∧ (∀ iv body, hexDecode p = .ok (iv ++ body) → iv.length = 16 →
      ∃ t, exec .cfbDec s = .next t ∧ t.ivDraw = s.ivDraw
        ∧ Completes s t (.ok (cfbDecrypt fips197 (normalize (keyBuf s) (keyLength s)) iv body)))

/-- O38. R154: CFB_DEC on the output of CFB_ENC, with the same key, gives the plaintext back, for every P (the empty one too)
that fits and every IV; the envelope begins with hex(iv). -/
def Obligations.CfbRoundTrip : Prop :=
  ∀ (s : State) (p iv : Bytes), s.cfg.legal = true → InputIs s p → IvIs s iv →
    2 * (16 + p.length) ≤ s.cfg.ibufSize → 2 * (16 + p.length) ≤ s.cfg.obufSize →
    ∃ t text, exec .cfbEnc s = .next t ∧ CompletesOk s t text ∧ text.take 32 = hexEncode iv
      ∧ ∀ u : State, InputIs u text → keyBuf u = keyBuf s → u.keyLen = s.keyLen → u.cfg = s.cfg →
        ∃ v, exec .cfbDec u = .next v ∧ CompletesOk u v p

/-! ### ECB (spec/43_ecb.md) -/

/-- O39. R170, R171 block by block, and R171's inverse: each 16-byte block on its own. -/
def Obligations.EcbTransformsEachBlock : Prop :=
  ∀ (c : BlockCipher) (k d : Bytes), c.Lawful → isKeyLength k.length = true → d.length % 16 = 0 →
    (ecbEncrypt c k d).length = d.length ∧ (ecbDecrypt c k d).length = d.length
    ∧ ecbDecrypt c k (ecbEncrypt c k d) = d
    ∧ ∀ j, 16 * j < d.length →
      ((ecbEncrypt c k d).drop (16 * j)).take 16 = c.enc k ((d.drop (16 * j)).take 16)
      ∧ ((ecbDecrypt c k d).drop (16 * j)).take 16 = c.dec k ((d.drop (16 * j)).take 16)

/-- O40. R172: ECB_ENC writes hex of the ECB encryption of the padded input under the normalized key, the same from either entry
point, 32·(floor(len(P)/16) + 1) characters. -/
def Obligations.EcbEncEncryptsThePaddedInput : Prop :=
  decode 0x00000012 = .ok (.ecbEnc false) ∧ decode 0x00010012 = .ok (.ecbEnc true) ∧
  ∀ (s : State) (p : Bytes) (typed : Bool), InputIs s p →
    ∃ t out, exec (.ecbEnc typed) s = .next t ∧ Completes s t (.ok out) ∧ t.ivDraw = s.ivDraw
      ∧ out = hexEncode (ecbEncrypt fips197 (normalize (keyBuf s) (keyLength s)) (pad p 16))
      ∧ out.length = 32 * (p.length / 16 + 1)

/-- O41. R173 with R106: ECB_DEC's errors, in order DECODE_ERROR, EMPTY_INPUT, NOT_BLOCK_MULTIPLE, are reported by the typed entry
point and are the empty output from the legacy one; else it writes the lenient unpad of the decrypted blocks. -/
def Obligations.EcbDecReportsOrCollapses : Prop :=
  decode 0x00000013 = .ok (.ecbDec false) ∧ decode 0x00010013 = .ok (.ecbDec true) ∧
  ∀ (s : State) (p : Bytes), InputIs s p →
    (∀ e, (hexDecode p = .err .decodeError ∧ e = .decodeError) ∨ (hexDecode p = .ok [] ∧ e = .emptyInput)
        ∨ (∃ x, hexDecode p = .ok x ∧ x.length % 16 ≠ 0 ∧ e = .notBlockMultiple) →
      (∃ t, exec (.ecbDec true) s = .next t ∧ CompletesErr s t e ∧ t.ivDraw = s.ivDraw)
      ∧ (∃ t, exec (.ecbDec false) s = .next t ∧ CompletesOk s t [] ∧ t.ivDraw = s.ivDraw))
    ∧ (∀ x typed, hexDecode p = .ok x → x ≠ [] → x.length % 16 = 0 →
      ∃ t, exec (.ecbDec typed) s = .next t ∧ t.ivDraw = s.ivDraw
        ∧ Completes s t (.ok (unpadLenient (ecbDecrypt fips197 (normalize (keyBuf s) (keyLength s)) x))))

/-- O42. R174(a): ECB_DEC, from either entry point, on the output of ECB_ENC with the same key gives the plaintext back. -/
def Obligations.EcbRoundTrip : Prop :=
  ∀ (s : State) (p : Bytes) (typed typed' : Bool), s.cfg.legal = true → InputIs s p →
    2 * (p.length + 16) ≤ s.cfg.ibufSize → 2 * (p.length + 16) ≤ s.cfg.obufSize →
    ∃ t text, exec (.ecbEnc typed) s = .next t ∧ CompletesOk s t text
      ∧ ∀ u : State, InputIs u text → keyBuf u = keyBuf s → u.keyLen = s.keyLen → u.cfg = s.cfg →
        ∃ v, exec (.ecbDec typed') u = .next v ∧ CompletesOk u v p

/-! ### CTR (spec/44_ctr.md) -/

/-- O43. R191, R192 byte by byte, for every cipher that gives 16-byte blocks: byte 16j+i of the output is that byte of the input
xored with byte i of AES_Enc of be_bytes_16(uint_be(iv) + j); encrypting twice gives the input back. -/
def Obligations.CtrCountsBigEndianBlocks : Prop :=
  ∀ (c : BlockCipher) (k iv d : Bytes), c.Lawful → isKeyLength k.length = true → iv.length = 16 →
    (ctrXcrypt c k iv d).length = d.length ∧ ctrXcrypt c k iv (ctrXcrypt c k iv d) = d
    ∧ ∀ j i, i < 16 → 16 * j + i < d.length →
      (ctrXcrypt c k iv d).getD (16 * j + i) 0
        = d.getD (16 * j + i) 0 ^^^ (c.enc k (beBytes 16 ((uintBe iv + j) % 2 ^ 128))).getD i 0

/-- O44. R190, R195(b), R193, R194: both CTR commands give INVALID_KEY_LENGTH for every KEY_LEN other than 16, 24 and 32, whatever
the other inputs (no draw is waited for, R111, and no byte of IBUF need be written, the model's reading, log 6); then
IN_LEN = 0 is EMPTY_PLAINTEXT for CTR_ENC and EMPTY_INPUT for CTR_DEC. -/
def Obligations.CtrChecksKeyLengthThenEmptiness : Prop :=
  ∀ s : State, s.inLen.toNat ≤ s.cfg.ibufSize →
    (¬(s.keyLen = 16 ∨ s.keyLen = 24 ∨ s.keyLen = 32) →
      (∃ t, exec .ctrEnc s = .next t ∧ CompletesErr s t .invalidKeyLength ∧ t.ivDraw = s.ivDraw)
      ∧ (∃ t, exec .ctrDec s = .next t ∧ CompletesErr s t .invalidKeyLength ∧ t.ivDraw = s.ivDraw))
    ∧ ((s.keyLen = 16 ∨ s.keyLen = 24 ∨ s.keyLen = 32) → s.inLen = 0 →
      (∃ t, exec .ctrEnc s = .next t ∧ CompletesErr s t .emptyPlaintext ∧ t.ivDraw = s.ivDraw)
      ∧ (∃ t, exec .ctrDec s = .next t ∧ CompletesErr s t .emptyInput ∧ t.ivDraw = s.ivDraw))

/-- O45. R193: with a valid key length and a non-empty input CTR_ENC writes base64 of the IV and the CTR encryption of the padded
input under the raw key KEYBUF[0..KEY_LEN), 4·ceil((16 + 16·(floor(len(P)/16) + 1))/3) characters. That the completion takes the draw on offer when cur_ivsel = 0,
and leaves it otherwise, is the model's choice (log 4). -/
def Obligations.CtrEncWritesTheEnvelope : Prop :=
  decode 0x00000014 = .ok .ctrEnc ∧
  ∀ (s : State) (p iv : Bytes), InputIs s p → IvIs s iv → (s.keyLen = 16 ∨ s.keyLen = 24 ∨ s.keyLen = 32) → p ≠ [] →
    ∃ t out, exec .ctrEnc s = .next t ∧ Completes s t (.ok out) ∧ t.ivDraw = (if s.curIvsel then s.ivDraw else none)
      ∧ out = b64Encode (iv ++ ctrXcrypt fips197 ((keyBuf s).take s.keyLen.toNat) iv (pad p 16))
      ∧ out.length = 4 * ((16 + 16 * (p.length / 16 + 1) + 2) / 3)

/-- O46. R194: with a valid key length and a non-empty text CTR_DEC reports DECODE_ERROR for malformed base64, TOO_SHORT for at
most 16 decoded bytes, INVALID_PADDING where the strict unpad fails, and else writes the unpadded plaintext. -/
def Obligations.CtrDecOpensTheEnvelope : Prop :=
  decode 0x00000015 = .ok .ctrDec ∧
  ∀ (s : State) (p : Bytes), InputIs s p → (s.keyLen = 16 ∨ s.keyLen = 24 ∨ s.keyLen = 32) → p ≠ [] →
    (b64Decode s.cfg p = .err .decodeError →
      ∃ t, exec .ctrDec s = .next t ∧ CompletesErr s t .decodeError ∧ t.ivDraw = s.ivDraw)
    ∧ (∀ x, b64Decode s.cfg p = .ok x → x.length ≤ 16 →
      ∃ t, exec .ctrDec s = .next t ∧ CompletesErr s t .tooShort ∧ t.ivDraw = s.ivDraw)
    ∧ (∀ iv body, b64Decode s.cfg p = .ok (iv ++ body) → iv.length = 16 → body ≠ [] →
      ∃ t, exec .ctrDec s = .next t ∧ t.ivDraw = s.ivDraw
        ∧ Completes s t (unpadStrict (ctrXcrypt fips197 ((keyBuf s).take s.keyLen.toNat) iv body)))

/-- O47. R195(a): for a valid key length and non-empty P, CTR_DEC on the output of CTR_ENC with the same key gives P back, for
every IV, when the envelope fits. -/
def Obligations.CtrRoundTrip : Prop :=
  ∀ (s : State) (p iv : Bytes), s.cfg.legal = true → InputIs s p → IvIs s iv →
    (s.keyLen = 16 ∨ s.keyLen = 24 ∨ s.keyLen = 32) → p ≠ [] →
    4 * ((16 + 16 * (p.length / 16 + 1) + 2) / 3) ≤ s.cfg.ibufSize →
    4 * ((16 + 16 * (p.length / 16 + 1) + 2) / 3) ≤ s.cfg.obufSize →
    ∃ t text, exec .ctrEnc s = .next t ∧ CompletesOk s t text
      ∧ ∀ u : State, InputIs u text → keyBuf u = keyBuf s → u.keyLen = s.keyLen → u.cfg = s.cfg →
        ∃ v, exec .ctrDec u = .next v ∧ CompletesOk u v p

/-! ### AES core and codecs (spec/45_codecs.md) -/

/-- O48. R210's law of the machine's cipher: AES_Dec(k, AES_Enc(k, b)) = b and AES_Enc(k, AES_Dec(k, b)) = b for every key of 16, 24
or 32 bytes and every 16-byte block, and both give 16 bytes. -/
def Obligations.AesDecryptionInvertsEncryption : Prop := fips197.Lawful

/-- O49. R216, R212: HEX_ENC writes two characters per byte, high nibble first, from 0123456789abcdef. -/
def Obligations.HexEncWritesTwoDigitsPerByte : Prop :=
  decode 0x00000020 = .ok .hexEnc ∧
  ∀ (s : State) (p : Bytes), InputIs s p →
    ∃ t out, exec .hexEnc s = .next t ∧ Completes s t (.ok out) ∧ t.ivDraw = s.ivDraw ∧ out.length = 2 * p.length
      ∧ ∀ j, j < p.length →
        out.getD (2 * j) 0 = hexAlphabet.getD ((p.getD j 0).toNat / 16) 0
        ∧ out.getD (2 * j + 1) 0 = hexAlphabet.getD ((p.getD j 0).toNat % 16) 0

/-- O50. R217, R213: HEX_DEC writes one byte per two hex digits of either case, and reports DECODE_ERROR for an odd length or any
other byte. That no byte need be written where the length is odd is the model's reading of which bytes a command reads
(log 6). -/
def Obligations.HexDecReadsTwoDigitsPerByte : Prop :=
  decode 0x00000021 = .ok .hexDec ∧
  (∀ s : State, s.inLen.toNat ≤ s.cfg.ibufSize → s.inLen.toNat % 2 = 1 →
    ∃ t, exec .hexDec s = .next t ∧ CompletesErr s t .decodeError ∧ t.ivDraw = s.ivDraw)
  ∧ ∀ (s : State) (p : Bytes), InputIs s p →
    ((∃ j, j < p.length ∧ hexVal (p.getD j 0) = none) →
      ∃ t, exec .hexDec s = .next t ∧ CompletesErr s t .decodeError ∧ t.ivDraw = s.ivDraw)
    ∧ (p.length % 2 = 0 → (∀ j, j < p.length → hexVal (p.getD j 0) ≠ none) →
      ∃ t out, exec .hexDec s = .next t ∧ Completes s t (.ok out) ∧ t.ivDraw = s.ivDraw ∧ out.length = p.length / 2
        ∧ ∀ j, j < out.length → ∃ hi lo, hexVal (p.getD (2 * j) 0) = some hi ∧ hexVal (p.getD (2 * j + 1) 0) = some lo
          ∧ (out.getD j 0).toNat = 16 * hi + lo)

/-- O51. R218, R214: B64_ENC writes 4·ceil(len(P)/3) characters, character i of group g being the alphabet's at the i-th six bits
of bytes 3g to 3g+2 (missing bytes as zero), or '=' where the group has no byte for it. -/
def Obligations.B64EncWritesFourDigitsPerThreeBytes : Prop :=
  decode 0x00000022 = .ok .b64Enc ∧
  ∀ (s : State) (p : Bytes), InputIs s p →
    ∃ t out, exec .b64Enc s = .next t ∧ Completes s t (.ok out) ∧ t.ivDraw = s.ivDraw
      ∧ out.length = 4 * ((p.length + 2) / 3)
      ∧ ∀ g i, i < 4 → 3 * g < p.length →
        out.getD (4 * g + i) 0 = (if i ≤ p.length - 3 * g then
          b64Alphabet.getD (((p.getD (3 * g) 0).toNat * 65536 + (p.getD (3 * g + 1) 0).toNat * 256
            + (p.getD (3 * g + 2) 0).toNat) / 64 ^ (3 - i) % 64) 0 else 0x3d)

/-- O52. R219 with R215 characterised by R214's encoder: with B64_SKIP_CRLF the text is decoded without its CR and LF bytes;
a text decodes strictly exactly when it is the canonical text of the output, and leniently exactly when it differs
from that in the unused bits of its last digit at most; B64_DEC writes the output and reports DECODE_ERROR for any other
text; the empty text gives the empty output. -/
def Obligations.B64DecDecodesOrReports : Prop :=
  decode 0x00000023 = .ok .b64Dec
  ∧ (∀ (s : State) (p : Bytes), InputIs s p →
    ∃ t, exec .b64Dec s = .next t ∧ t.ivDraw = s.ivDraw ∧ Completes s t (b64Decode s.cfg p)
      ∧ (b64Decode s.cfg p = .err .decodeError ∨ ∃ out, b64Decode s.cfg p = .ok out)
      ∧ (p = [] → CompletesOk s t []))
  ∧ (∀ (q : Params) (x : Bytes), q.b64SkipCrlf = true →
      b64Decode q x = b64Decode { q with b64SkipCrlf := false } (x.filter (fun c => c ≠ 0x0d ∧ c ≠ 0x0a)))
  ∧ (∀ (q : Params) (x d : Bytes), q.b64SkipCrlf = false → q.b64Strict = true →
      (b64Decode q x = .ok d ↔ x = b64Encode d))
  ∧ (∀ (q : Params) (x d : Bytes), q.b64SkipCrlf = false → q.b64Strict = false →
      (b64Decode q x = .ok d ↔ x.length = 4 * ((d.length + 2) / 3) ∧ ∀ j, j < x.length →
        x.getD j 0 = (b64Encode d).getD j 0
        ∨ (d.length % 3 ≠ 0 ∧ j + 4 = x.length + d.length % 3
          ∧ ∃ v w, b64Val (x.getD j 0) = some v ∧ b64Val ((b64Encode d).getD j 0) = some w
            ∧ v / (if d.length % 3 = 1 then 16 else 4) = w / (if d.length % 3 = 1 then 16 else 4))))

/-- O53. R220: decoding inverts encoding for hex and for base64 under every setting of the parameters; hex decoding does not depend
on the case of A-F; the encoders write only the canonical text of what they encode. -/
def Obligations.CodecLaws : Prop :=
  (∀ d : Bytes, hexDecode (hexEncode d) = .ok d) ∧ (∀ (q : Params) (d : Bytes), b64Decode q (b64Encode d) = .ok d)
  ∧ (∀ t : Bytes, hexDecode t = hexDecode (t.map (fun c => if 0x41 ≤ c.toNat ∧ c.toNat ≤ 0x46 then c + 0x20 else c)))
  ∧ (∀ (t d : Bytes), hexDecode t = .ok d → (∀ c ∈ t, c ∈ hexAlphabet) → t = hexEncode d)
  ∧ (∀ (d : Bytes) (c : Byte), c ∈ hexEncode d → c ∈ hexAlphabet)
  ∧ (∀ (q : Params) (t d : Bytes), q.b64Strict = true → q.b64SkipCrlf = false → b64Decode q t = .ok d → t = b64Encode d)

/-! ### Inputs, draws and unwritten bytes -/

/-- O54. R110, R32, R274: the outcome of a command depends only on its word, KEY_LEN, the key bytes below it, P, and the IV: two
states that agree on those, on cur_ivsel and on the parameters give the same output, OUT_LEN and flags, whatever STATUS,
CTRL, key bytes at or beyond KEY_LEN, IBUF bytes at or beyond IN_LEN, or OBUF held. -/
def Obligations.OutcomeDependsOnlyOnTheOperands : Prop :=
  ∀ (i : Instr) (s u t : State), SameOperands s u →
    (s.curIvsel = true ∨ s.ivDraw ≠ none ∨ (i ≠ .cfbEnc ∧ i ≠ .ctrEnc)) → exec i s = .next t →
    ∃ v, exec i u = .next v ∧ v.outLen = t.outLen ∧ statusDone v.status = statusDone t.status
      ∧ statusErr v.status = statusErr t.status ∧ statusErrCode v.status = statusErrCode t.status
      ∧ ∀ j, j < t.outLen.toNat → v.byteAt (obufBase + j) = t.byteAt (obufBase + j)

/-- O55. U3, R274: no result rests on an UNWRITTEN byte. If a command finishes, it finishes with the same output, OUT_LEN and
STATUS from every state in which the UNWRITTEN bytes of IBUF hold any values at all. -/
def Obligations.NoResultRestsOnAnUnwrittenByte : Prop :=
  ∀ (i : Instr) (s u t : State), exec i s = .next t → u = s.setMem u.mem →
    (∀ a b, s.byteAt a = some b → u.byteAt a = some b) →
    (∀ a, ¬(ibufBase ≤ a ∧ a < ibufBase + s.cfg.ibufSize) → u.byteAt a = s.byteAt a) → s.cfg.legal = true →
    ∃ v, exec i u = .next v ∧ v.outLen = t.outLen ∧ v.status = t.status ∧ v.phase = t.phase
      ∧ ∀ j, j < s.cfg.obufSize → v.byteAt (obufBase + j) = t.byteAt (obufBase + j)

/-- O56. U3, R274, R277: a command that reads every byte of P (CFB_ENC and CTR_ENC past their checks and with an IV, ECB_ENC, PAD
with a block size, HEX_ENC, B64_ENC, and with B64_SKIP_CRLF = 1 B64_DEC and, with a valid key length, CTR_DEC) faults
where one of them is UNWRITTEN, and no completion happens. Which commands read every byte is the model's reading (log 6). -/
def Obligations.UnwrittenInputByteFaults : Prop :=
  ∀ (s : State) (j : Nat), j < s.inLen.toNat → s.inLen.toNat ≤ s.cfg.ibufSize → s.byteAt (0x4000 + j) = none →
    exec .hexEnc s = .fault .unwrittenInput ∧ exec .b64Enc s = .fault .unwrittenInput
    ∧ (∀ typed, exec (.ecbEnc typed) s = .fault .unwrittenInput)
    ∧ (∀ b, 1 ≤ b → exec (.pad b) s = .fault .unwrittenInput)
    ∧ (∀ iv, IvIs s iv → exec .cfbEnc s = .fault .unwrittenInput
      ∧ ((s.keyLen = 16 ∨ s.keyLen = 24 ∨ s.keyLen = 32) → exec .ctrEnc s = .fault .unwrittenInput))
    ∧ (s.cfg.b64SkipCrlf = true → exec .b64Dec s = .fault .unwrittenInput
      ∧ ((s.keyLen = 16 ∨ s.keyLen = 24 ∨ s.keyLen = 32) → exec .ctrDec s = .fault .unwrittenInput))

/-- O57. R102, R105: with cur_ivsel = 0 and no draw on offer, a completion that will read iv_draw waits: CFB_ENC and CTR_ENC past
their checks change nothing, never fail for want of entropy, and complete once a draw is offered. The entropy source's
step, in either phase, puts its draw on offer and changes nothing else. How a draw is held, and that a wait is a step, is the
model's choice (log 4). -/
def Obligations.CompletionWaitsForTheDraw : Prop :=
  (∀ (s : State) (d : Draw) (rest : List Event), s.schedule = .offer d :: rest →
    ∃ t, step s = .next t ∧ t.ivDraw = some d ∧ t = (s.setSchedule rest).setIvDraw (some d))
  ∧ ∀ (s : State) (p : Bytes) (d : Draw), InputIs s p → s.curIvsel = false → s.ivDraw = none →
    exec .cfbEnc s = .next s
    ∧ (∃ t out, exec .cfbEnc (s.setIvDraw (some d)) = .next t ∧ Completes s t (.ok out)
        ∧ out.take 32 = hexEncode d.toList)
    ∧ ((s.keyLen = 16 ∨ s.keyLen = 24 ∨ s.keyLen = 32) → p ≠ [] → exec .ctrEnc s = .next s
      ∧ ∃ t out, exec .ctrEnc (s.setIvDraw (some d)) = .next t ∧ Completes s t (.ok out)
        ∧ out.take 20 = b64Encode (d.toList.take 15))

/-- O58. R109, R108: between accept and completion no host access, offer or waiting changes the word in flight, its inputs or its
IV selection: while BUSY every step but a completion and a reset leaves CMD, KEY_LEN, IN_LEN, KEYBUF, IVBUF, IBUF,
OBUF, cur_ivsel and the phase as they are, whether an event is scheduled or the controller waits with nothing scheduled. -/
def Obligations.InputsStayFixedInFlight : Prop :=
  ∀ s t : State, s.phase = .busy → (∀ rest, s.schedule ≠ .reset :: rest) → step s = .next t →
    (t.phase = .busy ∨ ∃ e rest, s.schedule = e :: rest ∧ e ≠ .controller) →
    t.phase = .busy ∧ t.cmd = s.cmd ∧ t.keyLen = s.keyLen ∧ t.inLen = s.inLen ∧ t.curIvsel = s.curIvsel ∧ t.mem = s.mem
      ∧ t.outLen = s.outLen ∧ t.cfg = s.cfg

/-- O59. R277, R274, R61: no step faults but for a non-admitted host access or a command's read of an UNWRITTEN byte; with an admitted
next access and a written input (or one too long to be read) the machine has a next state. -/
def Obligations.AdmittedAndWrittenStepsAreSafe : Prop :=
  ∀ s : State, nextAccessAdmitted s = true → (s.cfg.ibufSize < s.inLen.toNat ∨ inputWritten s = true) → SafeStep s ∧ ∃ t, step s = .next t

/-- O60. R277, R102: an accepted command completes at the controller's turn after any number of host reads of admitted
addresses, if it need not wait for a draw and reads no UNWRITTEN byte. It need not wait with cur_ivsel = 1, with a draw on
offer, or where it reads no IV (R111): it is not CFB_ENC or CTR_ENC, it is a CTR_ENC that ends in its checks, or its input is
too long. It reads no UNWRITTEN byte if its input is written, too long to be read, or its word is illegal or KEYNORM's. -/
def Obligations.AcceptedCommandCompletes : Prop :=
  ∀ (s : State) (reads : List (Addr × Width)), s.phase = .busy →
    (inputWritten s = true ∨ s.cfg.ibufSize < s.inLen.toNat ∨ (∃ e, decode s.cmd = .error e) ∨ decode s.cmd = .ok .keynorm) →
    (s.curIvsel = true ∨ s.ivDraw ≠ none ∨ (decode s.cmd ≠ .ok .cfbEnc ∧ decode s.cmd ≠ .ok .ctrEnc)
      ∨ s.cfg.ibufSize < s.inLen.toNat
      ∨ (decode s.cmd = .ok .ctrEnc ∧ (s.inLen = 0 ∨ ¬(s.keyLen = 16 ∨ s.keyLen = 24 ∨ s.keyLen = 32)))) →
    (∀ r, r ∈ reads → admitted r.1 r.2 = true) →
    s.schedule = reads.map (fun r => Event.hostRead r.1 r.2) →
    ∃ t, Host.Core.run Sys2Proof.core (reads.length + 1) s = .next t ∧ t.phase = .idle ∧ statusDone t.status = true
      ∧ statusBusy t.status = false
end

