-- ==== Sys2Proof/Laws/Flags.lean ====
section
/-! SUPPORT. The bits of STATUS after each update, so that no later proof unfolds one. -/

namespace Sys2Proof.Machine

/-- A bit of `putBit w i b`: the new one at `i`, the old one elsewhere. -/
theorem getLsbD_putBit (w : Word) {i : Nat} (b : Bool) (j : Nat) (hi : i < 32) :
    (putBit w i b).getLsbD j = if j = i then b else w.getLsbD j := by
  have hbit : (1#32 <<< i).getLsbD j = decide (j = i) := by
    rcases Nat.lt_trichotomy j i with h | h | h
    · simp [BitVec.getLsbD_shiftLeft, h, Nat.ne_of_lt h]
    · subst h; simp [hi]
    · have : ¬ j < i := by omega
      have h2 : j - i ≠ 0 := by omega
      simp [BitVec.getLsbD_shiftLeft, this, Nat.ne_of_gt h, BitVec.getLsbD_one, h2]
  unfold putBit
  split
  · next hb =>
    rw [BitVec.getLsbD_or, hbit]
    by_cases h : j = i <;> simp [h, hb]
  · next hb =>
    rw [BitVec.getLsbD_and, BitVec.getLsbD_not, hbit]
    by_cases h : j = i
    · simp [h, hb]
    · by_cases hj : j < 32
      · simp [h, hj]
      · simp [h, hj, BitVec.getLsbD_of_ge w j (by omega)]

/-- A bit of `putErrCode w c`: the code in [15:8], the old bit elsewhere. -/
theorem getLsbD_putErrCode (w : Word) (c : Byte) (j : Nat) :
    (putErrCode w c).getLsbD j = if 8 ≤ j ∧ j < 16 then c.getLsbD (j - 8) else w.getLsbD j := by
  have hmask : ∀ i : Fin 32, (0xFFFF00FF#32).getLsbD i.val = !(decide (8 ≤ i.val ∧ i.val < 16)) := by decide
  unfold putErrCode
  rw [BitVec.getLsbD_or, BitVec.getLsbD_and, BitVec.getLsbD_shiftLeft]
  by_cases hj : j < 32
  · rw [hmask ⟨j, hj⟩]
    by_cases h : 8 ≤ j ∧ j < 16
    · have h8 : ¬ j < 8 := by omega
      simp [h, hj, h8, show j - 8 < 32 by omega]
    · by_cases h8 : j < 8
      · simp [h8, hj, show ¬ 8 ≤ j by omega]
      · have h16 : ¬ j < 16 := by omega
        simp [hj, h16, h8, BitVec.getLsbD_setWidth, BitVec.getLsbD_of_ge c (j - 8) (by omega)]
  · rw [BitVec.getLsbD_of_ge w j (by omega)]
    have : ¬ (8 ≤ j ∧ j < 16) := by omega
    simp [hj, this]

/-- The error code just put. -/
@[simp] theorem statusErrCode_putErrCode (w : Word) (c : Byte) : statusErrCode (putErrCode w c) = c := by
  refine BitVec.eq_of_getLsbD_eq fun i hi => ?_
  simp [statusErrCode, getLsbD_putErrCode, hi, show 8 + i < 16 by omega]

/-- A flag's update leaves the error code. -/
theorem statusErrCode_putBit (w : Word) {i : Nat} (b : Bool) (hi : i < 8) :
    statusErrCode (putBit w i b) = statusErrCode w := by
  refine BitVec.eq_of_getLsbD_eq fun j hj => ?_
  simp [statusErrCode, getLsbD_putBit _ _ _ (show i < 32 by omega), hj,
    show ¬ 8 + j = i by omega]

/-- Two words with the same bits [7:4] and [31:16] agree in the reserved bits. -/
theorem reserved_eq {w v : Word}
    (h : ∀ j, (4 ≤ j ∧ j < 8) ∨ (16 ≤ j ∧ j < 32) → w.getLsbD j = v.getLsbD j) :
    w &&& statusReserved = v &&& statusReserved := by
  have hmask : ∀ i : Fin 32, statusReserved.getLsbD i.val
      = decide ((4 ≤ i.val ∧ i.val < 8) ∨ (16 ≤ i.val ∧ i.val < 32)) := by decide
  refine BitVec.eq_of_getLsbD_eq fun i hi => ?_
  rw [BitVec.getLsbD_and, BitVec.getLsbD_and, hmask ⟨i, hi⟩]
  by_cases hc : (4 ≤ i ∧ i < 8) ∨ (16 ≤ i ∧ i < 32)
  · simp [h i hc]
  · simp [hc]

@[simp] theorem reserved_putBit (w : Word) {i : Nat} (b : Bool) (hi : i < 4) :
    putBit w i b &&& statusReserved = w &&& statusReserved :=
  reserved_eq fun j hj => by rw [getLsbD_putBit _ _ _ (by omega), if_neg (by omega)]

@[simp] theorem reserved_putErrCode (w : Word) (c : Byte) :
    putErrCode w c &&& statusReserved = w &&& statusReserved :=
  reserved_eq fun j hj => by rw [getLsbD_putErrCode, if_neg (by omega)]

/-! ### Each flag after each update -/

@[simp] theorem statusBusy_putBusy (w : Word) (b : Bool) : statusBusy (putBusy w b) = b := by
  simp only [statusBusy, putBusy, getLsbD_putBit w b 0 (show 0 < 32 by decide)]; rfl

@[simp] theorem statusBusy_putDone (w : Word) (b : Bool) : statusBusy (putDone w b) = statusBusy w := by
  simp only [statusBusy, putDone, getLsbD_putBit w b 0 (show 1 < 32 by decide)]; rfl

@[simp] theorem statusBusy_putErr (w : Word) (b : Bool) : statusBusy (putErr w b) = statusBusy w := by
  simp only [statusBusy, putErr, getLsbD_putBit w b 0 (show 2 < 32 by decide)]; rfl

@[simp] theorem statusBusy_putBusyWr (w : Word) (b : Bool) : statusBusy (putBusyWr w b) = statusBusy w := by
  simp only [statusBusy, putBusyWr, getLsbD_putBit w b 0 (show 3 < 32 by decide)]; rfl

@[simp] theorem statusBusy_putErrCode (w : Word) (c : Byte) : statusBusy (putErrCode w c) = statusBusy w := by
  simp only [statusBusy, getLsbD_putErrCode w c 0]; rfl

@[simp] theorem statusDone_putBusy (w : Word) (b : Bool) : statusDone (putBusy w b) = statusDone w := by
  simp only [statusDone, putBusy, getLsbD_putBit w b 1 (show 0 < 32 by decide)]; rfl

@[simp] theorem statusDone_putDone (w : Word) (b : Bool) : statusDone (putDone w b) = b := by
  simp only [statusDone, putDone, getLsbD_putBit w b 1 (show 1 < 32 by decide)]; rfl

@[simp] theorem statusDone_putErr (w : Word) (b : Bool) : statusDone (putErr w b) = statusDone w := by
  simp only [statusDone, putErr, getLsbD_putBit w b 1 (show 2 < 32 by decide)]; rfl

@[simp] theorem statusDone_putBusyWr (w : Word) (b : Bool) : statusDone (putBusyWr w b) = statusDone w := by
  simp only [statusDone, putBusyWr, getLsbD_putBit w b 1 (show 3 < 32 by decide)]; rfl

@[simp] theorem statusDone_putErrCode (w : Word) (c : Byte) : statusDone (putErrCode w c) = statusDone w := by
  simp only [statusDone, getLsbD_putErrCode w c 1]; rfl

@[simp] theorem statusErr_putBusy (w : Word) (b : Bool) : statusErr (putBusy w b) = statusErr w := by
  simp only [statusErr, putBusy, getLsbD_putBit w b 2 (show 0 < 32 by decide)]; rfl

@[simp] theorem statusErr_putDone (w : Word) (b : Bool) : statusErr (putDone w b) = statusErr w := by
  simp only [statusErr, putDone, getLsbD_putBit w b 2 (show 1 < 32 by decide)]; rfl

@[simp] theorem statusErr_putErr (w : Word) (b : Bool) : statusErr (putErr w b) = b := by
  simp only [statusErr, putErr, getLsbD_putBit w b 2 (show 2 < 32 by decide)]; rfl

@[simp] theorem statusErr_putBusyWr (w : Word) (b : Bool) : statusErr (putBusyWr w b) = statusErr w := by
  simp only [statusErr, putBusyWr, getLsbD_putBit w b 2 (show 3 < 32 by decide)]; rfl

@[simp] theorem statusErr_putErrCode (w : Word) (c : Byte) : statusErr (putErrCode w c) = statusErr w := by
  simp only [statusErr, getLsbD_putErrCode w c 2]; rfl

@[simp] theorem statusBusyWr_putBusy (w : Word) (b : Bool) : statusBusyWr (putBusy w b) = statusBusyWr w := by
  simp only [statusBusyWr, putBusy, getLsbD_putBit w b 3 (show 0 < 32 by decide)]; rfl

@[simp] theorem statusBusyWr_putDone (w : Word) (b : Bool) : statusBusyWr (putDone w b) = statusBusyWr w := by
  simp only [statusBusyWr, putDone, getLsbD_putBit w b 3 (show 1 < 32 by decide)]; rfl

@[simp] theorem statusBusyWr_putErr (w : Word) (b : Bool) : statusBusyWr (putErr w b) = statusBusyWr w := by
  simp only [statusBusyWr, putErr, getLsbD_putBit w b 3 (show 2 < 32 by decide)]; rfl

@[simp] theorem statusBusyWr_putBusyWr (w : Word) (b : Bool) : statusBusyWr (putBusyWr w b) = b := by
  simp only [statusBusyWr, putBusyWr, getLsbD_putBit w b 3 (show 3 < 32 by decide)]; rfl

@[simp] theorem statusBusyWr_putErrCode (w : Word) (c : Byte) : statusBusyWr (putErrCode w c) = statusBusyWr w := by
  simp only [statusBusyWr, getLsbD_putErrCode w c 3]; rfl

@[simp] theorem statusErrCode_putBusy (w : Word) (b : Bool) : statusErrCode (putBusy w b) = statusErrCode w :=
  statusErrCode_putBit w b (by decide)

@[simp] theorem reserved_putBusy (w : Word) (b : Bool) : putBusy w b &&& statusReserved = w &&& statusReserved :=
  reserved_putBit w b (by decide)

@[simp] theorem statusErrCode_putDone (w : Word) (b : Bool) : statusErrCode (putDone w b) = statusErrCode w :=
  statusErrCode_putBit w b (by decide)

@[simp] theorem reserved_putDone (w : Word) (b : Bool) : putDone w b &&& statusReserved = w &&& statusReserved :=
  reserved_putBit w b (by decide)

@[simp] theorem statusErrCode_putErr (w : Word) (b : Bool) : statusErrCode (putErr w b) = statusErrCode w :=
  statusErrCode_putBit w b (by decide)

@[simp] theorem reserved_putErr (w : Word) (b : Bool) : putErr w b &&& statusReserved = w &&& statusReserved :=
  reserved_putBit w b (by decide)

@[simp] theorem statusErrCode_putBusyWr (w : Word) (b : Bool) : statusErrCode (putBusyWr w b) = statusErrCode w :=
  statusErrCode_putBit w b (by decide)

@[simp] theorem reserved_putBusyWr (w : Word) (b : Bool) : putBusyWr w b &&& statusReserved = w &&& statusReserved :=
  reserved_putBit w b (by decide)

/-! ### statusAccepted -/

@[simp] theorem statusBusy_statusAccepted (w : Word) : statusBusy (statusAccepted w) = true := by
  simp [statusAccepted]

@[simp] theorem statusDone_statusAccepted (w : Word) : statusDone (statusAccepted w) = false := by
  simp [statusAccepted]

@[simp] theorem statusErr_statusAccepted (w : Word) : statusErr (statusAccepted w) = false := by
  simp [statusAccepted]

@[simp] theorem statusBusyWr_statusAccepted (w : Word) : statusBusyWr (statusAccepted w) = statusBusyWr w := by
  simp [statusAccepted]

@[simp] theorem statusErrCode_statusAccepted (w : Word) : statusErrCode (statusAccepted w) = 0 := by
  simp [statusAccepted]

@[simp] theorem reserved_statusAccepted (w : Word) : statusAccepted w &&& statusReserved = w &&& statusReserved := by
  simp [statusAccepted]

/-! ### statusOk -/

@[simp] theorem statusBusy_statusOk (w : Word) : statusBusy (statusOk w) = false := by
  simp [statusOk]

@[simp] theorem statusDone_statusOk (w : Word) : statusDone (statusOk w) = true := by
  simp [statusOk]

@[simp] theorem statusErr_statusOk (w : Word) : statusErr (statusOk w) = false := by
  simp [statusOk]

@[simp] theorem statusBusyWr_statusOk (w : Word) : statusBusyWr (statusOk w) = statusBusyWr w := by
  simp [statusOk]

@[simp] theorem statusErrCode_statusOk (w : Word) : statusErrCode (statusOk w) = 0 := by
  simp [statusOk]

@[simp] theorem reserved_statusOk (w : Word) : statusOk w &&& statusReserved = w &&& statusReserved := by
  simp [statusOk]

/-! ### statusError -/

@[simp] theorem statusBusy_statusError (w : Word) (e : ErrorName) : statusBusy (statusError w e) = false := by
  simp [statusError]

@[simp] theorem statusDone_statusError (w : Word) (e : ErrorName) : statusDone (statusError w e) = true := by
  simp [statusError]

@[simp] theorem statusErr_statusError (w : Word) (e : ErrorName) : statusErr (statusError w e) = true := by
  simp [statusError]

@[simp] theorem statusBusyWr_statusError (w : Word) (e : ErrorName) : statusBusyWr (statusError w e) = statusBusyWr w := by
  simp [statusError]

@[simp] theorem statusErrCode_statusError (w : Word) (e : ErrorName) : statusErrCode (statusError w e) = errorCode e := by
  simp [statusError]

@[simp] theorem reserved_statusError (w : Word) (e : ErrorName) : statusError w e &&& statusReserved = w &&& statusReserved := by
  simp [statusError]

/-! ### A write to STATUS (R26) -/

@[simp] theorem statusBusy_afterWrite (w v : Word) : statusBusy (statusAfterWrite w v) = statusBusy w := by
  unfold statusAfterWrite; split <;> split <;> simp_all

@[simp] theorem statusErr_afterWrite (w v : Word) : statusErr (statusAfterWrite w v) = statusErr w := by
  unfold statusAfterWrite; split <;> split <;> simp_all

@[simp] theorem statusDone_afterWrite (w v : Word) : statusDone (statusAfterWrite w v) = (statusDone w && !v.getLsbD 1) := by
  unfold statusAfterWrite; split <;> split <;> simp_all

@[simp] theorem statusBusyWr_afterWrite (w v : Word) : statusBusyWr (statusAfterWrite w v) = (statusBusyWr w && !v.getLsbD 3) := by
  unfold statusAfterWrite; split <;> split <;> simp_all

@[simp] theorem statusErrCode_afterWrite (w v : Word) : statusErrCode (statusAfterWrite w v) = statusErrCode w := by
  unfold statusAfterWrite; split <;> split <;> simp

@[simp] theorem reserved_afterWrite (w v : Word) : statusAfterWrite w v &&& statusReserved = w &&& statusReserved := by
  unfold statusAfterWrite; split <;> split <;> simp

/-! ### CTRL -/

@[simp] theorem ctrlStored_ctrlStored (v : Word) : ctrlStored (ctrlStored v) = ctrlStored v := by
  simp [ctrlStored, BitVec.and_assoc]

@[simp] theorem ctrlIrqEn_stored (v : Word) : ctrlIrqEn (ctrlStored v) = v.getLsbD 0 := by
  simp [ctrlIrqEn, ctrlStored]

@[simp] theorem ctrlIvFixed_stored (v : Word) : ctrlIvFixed (ctrlStored v) = v.getLsbD 1 := by
  simp [ctrlIvFixed, ctrlStored]

end Sys2Proof.Machine
end

