-- ==== Sys2Proof/Laws/Memory.lean ====
section
/-! SUPPORT. The laws of the buffers' memory: a read after a write, what a write leaves alone, and that every operation keeps
the canonical form. The reads hold of every list, canonical or not. -/

namespace Sys2Proof.Machine

/-! ### Reads -/

theorem Memory.lookup_insert (m : Memory) (a : Nat) (v : Byte) (x : Nat) :
    Memory.lookup (Memory.insert m a v) x = if x = a then some v else Memory.lookup m x := by
  induction m with
  | nil => simp [Memory.insert, Memory.lookup, eq_comm]
  | cons c m ih =>
    obtain ⟨b, w⟩ := c
    rcases Nat.lt_trichotomy b a with h | h | h
    · simp only [Memory.insert, h, if_true, Memory.lookup, ih]
      by_cases hx : b = x
      · have : x ≠ a := by omega
        simp [hx, this]
      · simp [hx]
    · subst h
      by_cases hx : x = b
      · simp [Memory.insert, Memory.lookup, hx]
      · simp [Memory.insert, Memory.lookup, hx, Ne.symm hx]
    · have h1 : ¬ b < a := by omega
      have h2 : ¬ b = a := by omega
      by_cases hx : x = a
      · simp [Memory.insert, Memory.lookup, h1, h2, hx]
      · simp [Memory.insert, Memory.lookup, h1, h2, hx, Ne.symm hx]

theorem Memory.lookup_erase (m : Memory) (a x : Nat) :
    Memory.lookup (Memory.erase m a) x = if x = a then none else Memory.lookup m x := by
  induction m with
  | nil => simp [Memory.erase, Memory.lookup]
  | cons c m ih =>
    obtain ⟨b, w⟩ := c
    simp only [Memory.erase] at ih ⊢
    by_cases h : b = a
    · subst h
      simp only [List.filter_cons, ne_eq, not_true_eq_false, decide_false, Bool.false_eq_true, if_false]
      rw [ih]
      by_cases hx : x = b
      · simp [hx]
      · simp [Memory.lookup, hx, Ne.symm hx]
    · simp only [List.filter_cons, ne_eq, h, not_false_eq_true, decide_true, if_true, Memory.lookup]
      rw [ih]
      by_cases hx : b = x
      · subst hx; simp [h]
      · simp [hx]

theorem Memory.lookup_clear (m : Memory) (a n x : Nat) :
    Memory.lookup (Memory.clear m a n) x = if a ≤ x ∧ x < a + n then none else Memory.lookup m x := by
  induction m with
  | nil => simp [Memory.clear, Memory.lookup]
  | cons c m ih =>
    obtain ⟨b, w⟩ := c
    simp only [Memory.clear] at ih ⊢
    by_cases h : a ≤ b ∧ b < a + n
    · simp only [List.filter_cons, h, not_true_eq_false, decide_false, Bool.false_eq_true, if_false, ih, Memory.lookup,
        and_self]
      by_cases hx : b = x
      · subst hx; simp [h]
      · simp [hx]
    · simp only [List.filter_cons, h, not_false_eq_true, decide_true, if_true, Memory.lookup, ih]
      by_cases hx : b = x
      · subst hx; simp [h]
      · simp [hx]

/-- A read after a write gives the byte written at its address and the byte before elsewhere. -/
theorem Memory.read_write (m : Memory) (a : Nat) (v : Byte) (x : Nat) :
    Memory.read (Memory.write m a v) x = if x = a then some v else Memory.read m x := by
  unfold Memory.write
  split
  · next h =>
    by_cases hx : x = a
    · simp [Memory.read, Memory.lookup_erase, hx, h]
    · simp [Memory.read, Memory.lookup_erase, hx]
  · by_cases hx : x = a
    · simp [Memory.read, Memory.lookup_insert, hx]
    · simp [Memory.read, Memory.lookup_insert, hx]

@[simp] theorem Memory.read_write_self (m : Memory) (a : Nat) (v : Byte) :
    Memory.read (Memory.write m a v) a = some v := by simp [Memory.read_write]

theorem Memory.read_write_ne (m : Memory) {a x : Nat} (v : Byte) (h : x ≠ a) :
    Memory.read (Memory.write m a v) x = Memory.read m x := by simp [Memory.read_write, h]

/-- The bytes written stand at their addresses, and every other address reads as before. -/
theorem Memory.read_writeBytes (vs : Bytes) (m : Memory) (a x : Nat) :
    Memory.read (Memory.writeBytes m a vs) x
      = if a ≤ x ∧ x < a + vs.length then some (vs.getD (x - a) 0) else Memory.read m x := by
  induction vs generalizing m a with
  | nil => simp [Memory.writeBytes]
  | cons v vs ih =>
    simp only [Memory.writeBytes, ih, List.length_cons]
    by_cases h1 : x = a
    · subst h1; simp
    · rw [Memory.read_write_ne _ _ h1]
      by_cases h2 : a + 1 ≤ x ∧ x < a + 1 + vs.length
      · have h3 : a ≤ x ∧ x < a + (vs.length + 1) := by omega
        have h4 : x - a = (x - (a + 1)) + 1 := by omega
        simp [h2, h3, h4]
      · have h3 : ¬(a ≤ x ∧ x < a + (vs.length + 1)) := by omega
        rw [if_neg h2, if_neg h3]

/-- A cleared range reads as unlisted, and every other address as before. -/
theorem Memory.read_clear (m : Memory) (a n x : Nat) :
    Memory.read (Memory.clear m a n) x = if a ≤ x ∧ x < a + n then Memory.unlisted x else Memory.read m x := by
  by_cases h : a ≤ x ∧ x < a + n
  · simp [Memory.read, Memory.lookup_clear, h]
  · simp only [Memory.read, Memory.lookup_clear, if_neg h]

@[simp] theorem Memory.read_nil (x : Nat) : Memory.read [] x = Memory.unlisted x := rfl

/-! ### The canonical form -/

/-- `rising`, as a fact about the first entry and the rest. -/
theorem Memory.rising_cons (c : Host.Cell) (m : Memory) :
    Memory.rising (c :: m) = true ↔ (∀ d ∈ m, c.1 < d.1) ∧ Memory.rising m = true := by
  induction m generalizing c with
  | nil => simp [Memory.rising]
  | cons d m ih =>
    simp only [Memory.rising, Bool.and_eq_true, decide_eq_true_eq, ih d, List.mem_cons, forall_eq_or_imp]
    constructor
    · rintro ⟨h1, h2, h3⟩; exact ⟨⟨h1, fun x hx => lt_trans h1 (h2 x hx)⟩, h2, h3⟩
    · rintro ⟨⟨h1, _⟩, h2, h3⟩; exact ⟨h1, h2, h3⟩

theorem Memory.rising_filter (p : Host.Cell → Bool) (m : Memory) (h : Memory.rising m = true) :
    Memory.rising (m.filter p) = true := by
  induction m with
  | nil => rfl
  | cons c m ih =>
    rw [Memory.rising_cons] at h
    rw [List.filter_cons]
    split
    · exact (Memory.rising_cons _ _).mpr ⟨fun d hd => h.1 d (List.mem_filter.mp hd).1, ih h.2⟩
    · exact ih h.2

/-- The entries of an insertion. -/
theorem Memory.mem_insert {m : Memory} {a : Nat} {v : Byte} {c : Host.Cell} (h : c ∈ Memory.insert m a v) :
    c = (a, v) ∨ c ∈ m := by
  induction m with
  | nil => simpa [Memory.insert] using h
  | cons d m ih =>
    obtain ⟨b, w⟩ := d
    simp only [Memory.insert] at h
    split at h
    · rcases List.mem_cons.mp h with h | h
      · exact .inr (by simp [h])
      · rcases ih h with h | h
        · exact .inl h
        · exact .inr (by simp [h])
    · split at h
      · rcases List.mem_cons.mp h with h | h
        · exact .inl h
        · exact .inr (by simp [h])
      · rcases List.mem_cons.mp h with h | h
        · exact .inl h
        · exact .inr h

theorem Memory.rising_insert (m : Memory) (a : Nat) (v : Byte) (h : Memory.rising m = true) :
    Memory.rising (Memory.insert m a v) = true := by
  induction m with
  | nil => rfl
  | cons d m ih =>
    obtain ⟨b, w⟩ := d
    have hd := (Memory.rising_cons _ _).mp h
    simp only [Memory.insert]
    split
    · next hb =>
      refine (Memory.rising_cons _ _).mpr ⟨fun c hc => ?_, ih hd.2⟩
      rcases Memory.mem_insert hc with rfl | hc
      · exact hb
      · exact hd.1 c hc
    · split
      · next hb => subst hb; exact (Memory.rising_cons _ _).mpr hd
      · next h1 h2 =>
        refine (Memory.rising_cons _ _).mpr ⟨fun c hc => ?_, h⟩
        have hab : a < b := by omega
        rcases List.mem_cons.mp hc with rfl | hc
        · exact hab
        · exact lt_trans hab (hd.1 c hc)

theorem Memory.wf_iff (m : Memory) :
    Memory.wf m = true ↔ Memory.rising m = true ∧ ∀ c ∈ m, Memory.unlisted c.1 ≠ some c.2 := by
  simp [Memory.wf]

/-- Leaving entries out keeps the canonical form. -/
theorem Memory.wf_filter (p : Host.Cell → Bool) (m : Memory) (h : Memory.wf m = true) :
    Memory.wf (m.filter p) = true := by
  rw [Memory.wf_iff] at h ⊢
  exact ⟨Memory.rising_filter p m h.1, fun c hc => h.2 c (List.mem_filter.mp hc).1⟩

theorem Memory.wf_erase (m : Memory) (a : Nat) (h : Memory.wf m = true) : Memory.wf (Memory.erase m a) = true :=
  Memory.wf_filter _ m h

theorem Memory.wf_clear (m : Memory) (a n : Nat) (h : Memory.wf m = true) : Memory.wf (Memory.clear m a n) = true :=
  Memory.wf_filter _ m h

theorem Memory.wf_write (m : Memory) (a : Nat) (v : Byte) (h : Memory.wf m = true) :
    Memory.wf (Memory.write m a v) = true := by
  unfold Memory.write
  split
  · exact Memory.wf_erase m a h
  · next hv =>
    rw [Memory.wf_iff] at h ⊢
    refine ⟨Memory.rising_insert m a v h.1, fun c hc => ?_⟩
    rcases Memory.mem_insert hc with rfl | hc
    · exact hv
    · exact h.2 c hc

theorem Memory.wf_writeBytes (vs : Bytes) (m : Memory) (a : Nat) (h : Memory.wf m = true) :
    Memory.wf (Memory.writeBytes m a vs) = true := by
  induction vs generalizing m a with
  | nil => exact h
  | cons v vs ih => exact ih _ _ (Memory.wf_write m a v h)

/-- The memory after reset is in canonical form. -/
theorem State.reset_mem_wf : Memory.wf State.reset.mem = true := rfl

/-! ### Only bytes of the buffers are stored -/

/-- A window address that holds a byte of a buffer (R60). -/
def isBufferAddress (p : Params) (a : Nat) : Prop :=
  regionOf p a ≠ .registers ∧ regionOf p a ≠ .unmapped

theorem Memory.inBuffers_iff (p : Params) (m : Memory) :
    Memory.inBuffers p m = true ↔ ∀ c ∈ m, isBufferAddress p c.1 := by
  simp only [Memory.inBuffers, List.all_eq_true, isBufferAddress]
  refine forall₂_congr fun c _ => ?_
  cases regionOf p c.1 <;> simp

theorem Memory.inBuffers_filter (p : Params) (q : Host.Cell → Bool) (m : Memory) (h : Memory.inBuffers p m = true) :
    Memory.inBuffers p (m.filter q) = true := by
  rw [Memory.inBuffers_iff] at h ⊢
  exact fun c hc => h c (List.mem_filter.mp hc).1

theorem Memory.inBuffers_write (p : Params) (m : Memory) (a : Nat) (v : Byte) (h : Memory.inBuffers p m = true)
    (ha : isBufferAddress p a) : Memory.inBuffers p (Memory.write m a v) = true := by
  unfold Memory.write
  split
  · exact Memory.inBuffers_filter p _ m h
  · rw [Memory.inBuffers_iff] at h ⊢
    intro c hc
    rcases Memory.mem_insert hc with rfl | hc
    · exact ha
    · exact h c hc

theorem Memory.inBuffers_writeBytes (p : Params) (vs : Bytes) (m : Memory) (a : Nat) (h : Memory.inBuffers p m = true)
    (ha : ∀ j, j < vs.length → isBufferAddress p (a + j)) : Memory.inBuffers p (Memory.writeBytes m a vs) = true := by
  induction vs generalizing m a with
  | nil => exact h
  | cons v vs ih =>
    refine ih _ _ (Memory.inBuffers_write p m a v h (ha 0 (by simp))) fun j hj => ?_
    have h1 := ha (j + 1) (by simpa using hj)
    have h2 : a + (j + 1) = a + 1 + j := by omega
    rwa [h2] at h1

end Sys2Proof.Machine
end

