-- ==== Sys2Proof/Laws/State.lean ====
section
/-! SUPPORT. What each update leaves in each field of the state: one lemma per field per update, by rfl. -/

namespace Sys2Proof.Machine

/-! ### Updates of one field -/

@[simp] theorem State.setPhase_phase (s : State) (v : Phase) : (s.setPhase v).phase = v := rfl
@[simp] theorem State.setPhase_ctrl (s : State) (v : Phase) : (s.setPhase v).ctrl = s.ctrl := rfl
@[simp] theorem State.setPhase_cmd (s : State) (v : Phase) : (s.setPhase v).cmd = s.cmd := rfl
@[simp] theorem State.setPhase_status (s : State) (v : Phase) : (s.setPhase v).status = s.status := rfl
@[simp] theorem State.setPhase_keyLen (s : State) (v : Phase) : (s.setPhase v).keyLen = s.keyLen := rfl
@[simp] theorem State.setPhase_inLen (s : State) (v : Phase) : (s.setPhase v).inLen = s.inLen := rfl
@[simp] theorem State.setPhase_outLen (s : State) (v : Phase) : (s.setPhase v).outLen = s.outLen := rfl
@[simp] theorem State.setPhase_curIvsel (s : State) (v : Phase) : (s.setPhase v).curIvsel = s.curIvsel := rfl
@[simp] theorem State.setPhase_mem (s : State) (v : Phase) : (s.setPhase v).mem = s.mem := rfl
@[simp] theorem State.setPhase_ivDraw (s : State) (v : Phase) : (s.setPhase v).ivDraw = s.ivDraw := rfl
@[simp] theorem State.setPhase_cfg (s : State) (v : Phase) : (s.setPhase v).cfg = s.cfg := rfl
@[simp] theorem State.setPhase_schedule (s : State) (v : Phase) : (s.setPhase v).schedule = s.schedule := rfl
@[simp] theorem State.setPhase_hostReads (s : State) (v : Phase) : (s.setPhase v).hostReads = s.hostReads := rfl
@[simp] theorem State.setPhase_fresh (s : State) (v : Phase) : (s.setPhase v).fresh = s.fresh := rfl

@[simp] theorem State.setCtrl_phase (s : State) (v : Word) : (s.setCtrl v).phase = s.phase := rfl
@[simp] theorem State.setCtrl_ctrl (s : State) (v : Word) : (s.setCtrl v).ctrl = v := rfl
@[simp] theorem State.setCtrl_cmd (s : State) (v : Word) : (s.setCtrl v).cmd = s.cmd := rfl
@[simp] theorem State.setCtrl_status (s : State) (v : Word) : (s.setCtrl v).status = s.status := rfl
@[simp] theorem State.setCtrl_keyLen (s : State) (v : Word) : (s.setCtrl v).keyLen = s.keyLen := rfl
@[simp] theorem State.setCtrl_inLen (s : State) (v : Word) : (s.setCtrl v).inLen = s.inLen := rfl
@[simp] theorem State.setCtrl_outLen (s : State) (v : Word) : (s.setCtrl v).outLen = s.outLen := rfl
@[simp] theorem State.setCtrl_curIvsel (s : State) (v : Word) : (s.setCtrl v).curIvsel = s.curIvsel := rfl
@[simp] theorem State.setCtrl_mem (s : State) (v : Word) : (s.setCtrl v).mem = s.mem := rfl
@[simp] theorem State.setCtrl_ivDraw (s : State) (v : Word) : (s.setCtrl v).ivDraw = s.ivDraw := rfl
@[simp] theorem State.setCtrl_cfg (s : State) (v : Word) : (s.setCtrl v).cfg = s.cfg := rfl
@[simp] theorem State.setCtrl_schedule (s : State) (v : Word) : (s.setCtrl v).schedule = s.schedule := rfl
@[simp] theorem State.setCtrl_hostReads (s : State) (v : Word) : (s.setCtrl v).hostReads = s.hostReads := rfl
@[simp] theorem State.setCtrl_fresh (s : State) (v : Word) : (s.setCtrl v).fresh = s.fresh := rfl

@[simp] theorem State.setCmd_phase (s : State) (v : Word) : (s.setCmd v).phase = s.phase := rfl
@[simp] theorem State.setCmd_ctrl (s : State) (v : Word) : (s.setCmd v).ctrl = s.ctrl := rfl
@[simp] theorem State.setCmd_cmd (s : State) (v : Word) : (s.setCmd v).cmd = v := rfl
@[simp] theorem State.setCmd_status (s : State) (v : Word) : (s.setCmd v).status = s.status := rfl
@[simp] theorem State.setCmd_keyLen (s : State) (v : Word) : (s.setCmd v).keyLen = s.keyLen := rfl
@[simp] theorem State.setCmd_inLen (s : State) (v : Word) : (s.setCmd v).inLen = s.inLen := rfl
@[simp] theorem State.setCmd_outLen (s : State) (v : Word) : (s.setCmd v).outLen = s.outLen := rfl
@[simp] theorem State.setCmd_curIvsel (s : State) (v : Word) : (s.setCmd v).curIvsel = s.curIvsel := rfl
@[simp] theorem State.setCmd_mem (s : State) (v : Word) : (s.setCmd v).mem = s.mem := rfl
@[simp] theorem State.setCmd_ivDraw (s : State) (v : Word) : (s.setCmd v).ivDraw = s.ivDraw := rfl
@[simp] theorem State.setCmd_cfg (s : State) (v : Word) : (s.setCmd v).cfg = s.cfg := rfl
@[simp] theorem State.setCmd_schedule (s : State) (v : Word) : (s.setCmd v).schedule = s.schedule := rfl
@[simp] theorem State.setCmd_hostReads (s : State) (v : Word) : (s.setCmd v).hostReads = s.hostReads := rfl
@[simp] theorem State.setCmd_fresh (s : State) (v : Word) : (s.setCmd v).fresh = s.fresh := rfl

@[simp] theorem State.setStatus_phase (s : State) (v : Word) : (s.setStatus v).phase = s.phase := rfl
@[simp] theorem State.setStatus_ctrl (s : State) (v : Word) : (s.setStatus v).ctrl = s.ctrl := rfl
@[simp] theorem State.setStatus_cmd (s : State) (v : Word) : (s.setStatus v).cmd = s.cmd := rfl
@[simp] theorem State.setStatus_status (s : State) (v : Word) : (s.setStatus v).status = v := rfl
@[simp] theorem State.setStatus_keyLen (s : State) (v : Word) : (s.setStatus v).keyLen = s.keyLen := rfl
@[simp] theorem State.setStatus_inLen (s : State) (v : Word) : (s.setStatus v).inLen = s.inLen := rfl
@[simp] theorem State.setStatus_outLen (s : State) (v : Word) : (s.setStatus v).outLen = s.outLen := rfl
@[simp] theorem State.setStatus_curIvsel (s : State) (v : Word) : (s.setStatus v).curIvsel = s.curIvsel := rfl
@[simp] theorem State.setStatus_mem (s : State) (v : Word) : (s.setStatus v).mem = s.mem := rfl
@[simp] theorem State.setStatus_ivDraw (s : State) (v : Word) : (s.setStatus v).ivDraw = s.ivDraw := rfl
@[simp] theorem State.setStatus_cfg (s : State) (v : Word) : (s.setStatus v).cfg = s.cfg := rfl
@[simp] theorem State.setStatus_schedule (s : State) (v : Word) : (s.setStatus v).schedule = s.schedule := rfl
@[simp] theorem State.setStatus_hostReads (s : State) (v : Word) : (s.setStatus v).hostReads = s.hostReads := rfl
@[simp] theorem State.setStatus_fresh (s : State) (v : Word) : (s.setStatus v).fresh = s.fresh := rfl

@[simp] theorem State.setKeyLen_phase (s : State) (v : Word) : (s.setKeyLen v).phase = s.phase := rfl
@[simp] theorem State.setKeyLen_ctrl (s : State) (v : Word) : (s.setKeyLen v).ctrl = s.ctrl := rfl
@[simp] theorem State.setKeyLen_cmd (s : State) (v : Word) : (s.setKeyLen v).cmd = s.cmd := rfl
@[simp] theorem State.setKeyLen_status (s : State) (v : Word) : (s.setKeyLen v).status = s.status := rfl
@[simp] theorem State.setKeyLen_keyLen (s : State) (v : Word) : (s.setKeyLen v).keyLen = v := rfl
@[simp] theorem State.setKeyLen_inLen (s : State) (v : Word) : (s.setKeyLen v).inLen = s.inLen := rfl
@[simp] theorem State.setKeyLen_outLen (s : State) (v : Word) : (s.setKeyLen v).outLen = s.outLen := rfl
@[simp] theorem State.setKeyLen_curIvsel (s : State) (v : Word) : (s.setKeyLen v).curIvsel = s.curIvsel := rfl
@[simp] theorem State.setKeyLen_mem (s : State) (v : Word) : (s.setKeyLen v).mem = s.mem := rfl
@[simp] theorem State.setKeyLen_ivDraw (s : State) (v : Word) : (s.setKeyLen v).ivDraw = s.ivDraw := rfl
@[simp] theorem State.setKeyLen_cfg (s : State) (v : Word) : (s.setKeyLen v).cfg = s.cfg := rfl
@[simp] theorem State.setKeyLen_schedule (s : State) (v : Word) : (s.setKeyLen v).schedule = s.schedule := rfl
@[simp] theorem State.setKeyLen_hostReads (s : State) (v : Word) : (s.setKeyLen v).hostReads = s.hostReads := rfl
@[simp] theorem State.setKeyLen_fresh (s : State) (v : Word) : (s.setKeyLen v).fresh = s.fresh := rfl

@[simp] theorem State.setInLen_phase (s : State) (v : Word) : (s.setInLen v).phase = s.phase := rfl
@[simp] theorem State.setInLen_ctrl (s : State) (v : Word) : (s.setInLen v).ctrl = s.ctrl := rfl
@[simp] theorem State.setInLen_cmd (s : State) (v : Word) : (s.setInLen v).cmd = s.cmd := rfl
@[simp] theorem State.setInLen_status (s : State) (v : Word) : (s.setInLen v).status = s.status := rfl
@[simp] theorem State.setInLen_keyLen (s : State) (v : Word) : (s.setInLen v).keyLen = s.keyLen := rfl
@[simp] theorem State.setInLen_inLen (s : State) (v : Word) : (s.setInLen v).inLen = v := rfl
@[simp] theorem State.setInLen_outLen (s : State) (v : Word) : (s.setInLen v).outLen = s.outLen := rfl
@[simp] theorem State.setInLen_curIvsel (s : State) (v : Word) : (s.setInLen v).curIvsel = s.curIvsel := rfl
@[simp] theorem State.setInLen_mem (s : State) (v : Word) : (s.setInLen v).mem = s.mem := rfl
@[simp] theorem State.setInLen_ivDraw (s : State) (v : Word) : (s.setInLen v).ivDraw = s.ivDraw := rfl
@[simp] theorem State.setInLen_cfg (s : State) (v : Word) : (s.setInLen v).cfg = s.cfg := rfl
@[simp] theorem State.setInLen_schedule (s : State) (v : Word) : (s.setInLen v).schedule = s.schedule := rfl
@[simp] theorem State.setInLen_hostReads (s : State) (v : Word) : (s.setInLen v).hostReads = s.hostReads := rfl
@[simp] theorem State.setInLen_fresh (s : State) (v : Word) : (s.setInLen v).fresh = s.fresh := rfl

@[simp] theorem State.setOutLen_phase (s : State) (v : Word) : (s.setOutLen v).phase = s.phase := rfl
@[simp] theorem State.setOutLen_ctrl (s : State) (v : Word) : (s.setOutLen v).ctrl = s.ctrl := rfl
@[simp] theorem State.setOutLen_cmd (s : State) (v : Word) : (s.setOutLen v).cmd = s.cmd := rfl
@[simp] theorem State.setOutLen_status (s : State) (v : Word) : (s.setOutLen v).status = s.status := rfl
@[simp] theorem State.setOutLen_keyLen (s : State) (v : Word) : (s.setOutLen v).keyLen = s.keyLen := rfl
@[simp] theorem State.setOutLen_inLen (s : State) (v : Word) : (s.setOutLen v).inLen = s.inLen := rfl
@[simp] theorem State.setOutLen_outLen (s : State) (v : Word) : (s.setOutLen v).outLen = v := rfl
@[simp] theorem State.setOutLen_curIvsel (s : State) (v : Word) : (s.setOutLen v).curIvsel = s.curIvsel := rfl
@[simp] theorem State.setOutLen_mem (s : State) (v : Word) : (s.setOutLen v).mem = s.mem := rfl
@[simp] theorem State.setOutLen_ivDraw (s : State) (v : Word) : (s.setOutLen v).ivDraw = s.ivDraw := rfl
@[simp] theorem State.setOutLen_cfg (s : State) (v : Word) : (s.setOutLen v).cfg = s.cfg := rfl
@[simp] theorem State.setOutLen_schedule (s : State) (v : Word) : (s.setOutLen v).schedule = s.schedule := rfl
@[simp] theorem State.setOutLen_hostReads (s : State) (v : Word) : (s.setOutLen v).hostReads = s.hostReads := rfl
@[simp] theorem State.setOutLen_fresh (s : State) (v : Word) : (s.setOutLen v).fresh = s.fresh := rfl

@[simp] theorem State.setCurIvsel_phase (s : State) (v : Bool) : (s.setCurIvsel v).phase = s.phase := rfl
@[simp] theorem State.setCurIvsel_ctrl (s : State) (v : Bool) : (s.setCurIvsel v).ctrl = s.ctrl := rfl
@[simp] theorem State.setCurIvsel_cmd (s : State) (v : Bool) : (s.setCurIvsel v).cmd = s.cmd := rfl
@[simp] theorem State.setCurIvsel_status (s : State) (v : Bool) : (s.setCurIvsel v).status = s.status := rfl
@[simp] theorem State.setCurIvsel_keyLen (s : State) (v : Bool) : (s.setCurIvsel v).keyLen = s.keyLen := rfl
@[simp] theorem State.setCurIvsel_inLen (s : State) (v : Bool) : (s.setCurIvsel v).inLen = s.inLen := rfl
@[simp] theorem State.setCurIvsel_outLen (s : State) (v : Bool) : (s.setCurIvsel v).outLen = s.outLen := rfl
@[simp] theorem State.setCurIvsel_curIvsel (s : State) (v : Bool) : (s.setCurIvsel v).curIvsel = v := rfl
@[simp] theorem State.setCurIvsel_mem (s : State) (v : Bool) : (s.setCurIvsel v).mem = s.mem := rfl
@[simp] theorem State.setCurIvsel_ivDraw (s : State) (v : Bool) : (s.setCurIvsel v).ivDraw = s.ivDraw := rfl
@[simp] theorem State.setCurIvsel_cfg (s : State) (v : Bool) : (s.setCurIvsel v).cfg = s.cfg := rfl
@[simp] theorem State.setCurIvsel_schedule (s : State) (v : Bool) : (s.setCurIvsel v).schedule = s.schedule := rfl
@[simp] theorem State.setCurIvsel_hostReads (s : State) (v : Bool) : (s.setCurIvsel v).hostReads = s.hostReads := rfl
@[simp] theorem State.setCurIvsel_fresh (s : State) (v : Bool) : (s.setCurIvsel v).fresh = s.fresh := rfl

@[simp] theorem State.setMem_phase (s : State) (v : Memory) : (s.setMem v).phase = s.phase := rfl
@[simp] theorem State.setMem_ctrl (s : State) (v : Memory) : (s.setMem v).ctrl = s.ctrl := rfl
@[simp] theorem State.setMem_cmd (s : State) (v : Memory) : (s.setMem v).cmd = s.cmd := rfl
@[simp] theorem State.setMem_status (s : State) (v : Memory) : (s.setMem v).status = s.status := rfl
@[simp] theorem State.setMem_keyLen (s : State) (v : Memory) : (s.setMem v).keyLen = s.keyLen := rfl
@[simp] theorem State.setMem_inLen (s : State) (v : Memory) : (s.setMem v).inLen = s.inLen := rfl
@[simp] theorem State.setMem_outLen (s : State) (v : Memory) : (s.setMem v).outLen = s.outLen := rfl
@[simp] theorem State.setMem_curIvsel (s : State) (v : Memory) : (s.setMem v).curIvsel = s.curIvsel := rfl
@[simp] theorem State.setMem_mem (s : State) (v : Memory) : (s.setMem v).mem = v := rfl
@[simp] theorem State.setMem_ivDraw (s : State) (v : Memory) : (s.setMem v).ivDraw = s.ivDraw := rfl
@[simp] theorem State.setMem_cfg (s : State) (v : Memory) : (s.setMem v).cfg = s.cfg := rfl
@[simp] theorem State.setMem_schedule (s : State) (v : Memory) : (s.setMem v).schedule = s.schedule := rfl
@[simp] theorem State.setMem_hostReads (s : State) (v : Memory) : (s.setMem v).hostReads = s.hostReads := rfl
@[simp] theorem State.setMem_fresh (s : State) (v : Memory) : (s.setMem v).fresh = s.fresh := rfl

@[simp] theorem State.setIvDraw_phase (s : State) (v : Option Draw) : (s.setIvDraw v).phase = s.phase := rfl
@[simp] theorem State.setIvDraw_ctrl (s : State) (v : Option Draw) : (s.setIvDraw v).ctrl = s.ctrl := rfl
@[simp] theorem State.setIvDraw_cmd (s : State) (v : Option Draw) : (s.setIvDraw v).cmd = s.cmd := rfl
@[simp] theorem State.setIvDraw_status (s : State) (v : Option Draw) : (s.setIvDraw v).status = s.status := rfl
@[simp] theorem State.setIvDraw_keyLen (s : State) (v : Option Draw) : (s.setIvDraw v).keyLen = s.keyLen := rfl
@[simp] theorem State.setIvDraw_inLen (s : State) (v : Option Draw) : (s.setIvDraw v).inLen = s.inLen := rfl
@[simp] theorem State.setIvDraw_outLen (s : State) (v : Option Draw) : (s.setIvDraw v).outLen = s.outLen := rfl
@[simp] theorem State.setIvDraw_curIvsel (s : State) (v : Option Draw) : (s.setIvDraw v).curIvsel = s.curIvsel := rfl
@[simp] theorem State.setIvDraw_mem (s : State) (v : Option Draw) : (s.setIvDraw v).mem = s.mem := rfl
@[simp] theorem State.setIvDraw_ivDraw (s : State) (v : Option Draw) : (s.setIvDraw v).ivDraw = v := rfl
@[simp] theorem State.setIvDraw_cfg (s : State) (v : Option Draw) : (s.setIvDraw v).cfg = s.cfg := rfl
@[simp] theorem State.setIvDraw_schedule (s : State) (v : Option Draw) : (s.setIvDraw v).schedule = s.schedule := rfl
@[simp] theorem State.setIvDraw_hostReads (s : State) (v : Option Draw) : (s.setIvDraw v).hostReads = s.hostReads := rfl
@[simp] theorem State.setIvDraw_fresh (s : State) (v : Option Draw) : (s.setIvDraw v).fresh = s.fresh := rfl

@[simp] theorem State.setSchedule_phase (s : State) (v : List Event) : (s.setSchedule v).phase = s.phase := rfl
@[simp] theorem State.setSchedule_ctrl (s : State) (v : List Event) : (s.setSchedule v).ctrl = s.ctrl := rfl
@[simp] theorem State.setSchedule_cmd (s : State) (v : List Event) : (s.setSchedule v).cmd = s.cmd := rfl
@[simp] theorem State.setSchedule_status (s : State) (v : List Event) : (s.setSchedule v).status = s.status := rfl
@[simp] theorem State.setSchedule_keyLen (s : State) (v : List Event) : (s.setSchedule v).keyLen = s.keyLen := rfl
@[simp] theorem State.setSchedule_inLen (s : State) (v : List Event) : (s.setSchedule v).inLen = s.inLen := rfl
@[simp] theorem State.setSchedule_outLen (s : State) (v : List Event) : (s.setSchedule v).outLen = s.outLen := rfl
@[simp] theorem State.setSchedule_curIvsel (s : State) (v : List Event) : (s.setSchedule v).curIvsel = s.curIvsel := rfl
@[simp] theorem State.setSchedule_mem (s : State) (v : List Event) : (s.setSchedule v).mem = s.mem := rfl
@[simp] theorem State.setSchedule_ivDraw (s : State) (v : List Event) : (s.setSchedule v).ivDraw = s.ivDraw := rfl
@[simp] theorem State.setSchedule_cfg (s : State) (v : List Event) : (s.setSchedule v).cfg = s.cfg := rfl
@[simp] theorem State.setSchedule_schedule (s : State) (v : List Event) : (s.setSchedule v).schedule = v := rfl
@[simp] theorem State.setSchedule_hostReads (s : State) (v : List Event) : (s.setSchedule v).hostReads = s.hostReads := rfl
@[simp] theorem State.setSchedule_fresh (s : State) (v : List Event) : (s.setSchedule v).fresh = s.fresh := rfl

@[simp] theorem State.setHostReads_phase (s : State) (v : List Word) : (s.setHostReads v).phase = s.phase := rfl
@[simp] theorem State.setHostReads_ctrl (s : State) (v : List Word) : (s.setHostReads v).ctrl = s.ctrl := rfl
@[simp] theorem State.setHostReads_cmd (s : State) (v : List Word) : (s.setHostReads v).cmd = s.cmd := rfl
@[simp] theorem State.setHostReads_status (s : State) (v : List Word) : (s.setHostReads v).status = s.status := rfl
@[simp] theorem State.setHostReads_keyLen (s : State) (v : List Word) : (s.setHostReads v).keyLen = s.keyLen := rfl
@[simp] theorem State.setHostReads_inLen (s : State) (v : List Word) : (s.setHostReads v).inLen = s.inLen := rfl
@[simp] theorem State.setHostReads_outLen (s : State) (v : List Word) : (s.setHostReads v).outLen = s.outLen := rfl
@[simp] theorem State.setHostReads_curIvsel (s : State) (v : List Word) : (s.setHostReads v).curIvsel = s.curIvsel := rfl
@[simp] theorem State.setHostReads_mem (s : State) (v : List Word) : (s.setHostReads v).mem = s.mem := rfl
@[simp] theorem State.setHostReads_ivDraw (s : State) (v : List Word) : (s.setHostReads v).ivDraw = s.ivDraw := rfl
@[simp] theorem State.setHostReads_cfg (s : State) (v : List Word) : (s.setHostReads v).cfg = s.cfg := rfl
@[simp] theorem State.setHostReads_schedule (s : State) (v : List Word) : (s.setHostReads v).schedule = s.schedule := rfl
@[simp] theorem State.setHostReads_hostReads (s : State) (v : List Word) : (s.setHostReads v).hostReads = v := rfl
@[simp] theorem State.setHostReads_fresh (s : State) (v : List Word) : (s.setHostReads v).fresh = s.fresh := rfl

@[simp] theorem State.setFresh_phase (s : State) (v : Nat) : (s.setFresh v).phase = s.phase := rfl
@[simp] theorem State.setFresh_ctrl (s : State) (v : Nat) : (s.setFresh v).ctrl = s.ctrl := rfl
@[simp] theorem State.setFresh_cmd (s : State) (v : Nat) : (s.setFresh v).cmd = s.cmd := rfl
@[simp] theorem State.setFresh_status (s : State) (v : Nat) : (s.setFresh v).status = s.status := rfl
@[simp] theorem State.setFresh_keyLen (s : State) (v : Nat) : (s.setFresh v).keyLen = s.keyLen := rfl
@[simp] theorem State.setFresh_inLen (s : State) (v : Nat) : (s.setFresh v).inLen = s.inLen := rfl
@[simp] theorem State.setFresh_outLen (s : State) (v : Nat) : (s.setFresh v).outLen = s.outLen := rfl
@[simp] theorem State.setFresh_curIvsel (s : State) (v : Nat) : (s.setFresh v).curIvsel = s.curIvsel := rfl
@[simp] theorem State.setFresh_mem (s : State) (v : Nat) : (s.setFresh v).mem = s.mem := rfl
@[simp] theorem State.setFresh_ivDraw (s : State) (v : Nat) : (s.setFresh v).ivDraw = s.ivDraw := rfl
@[simp] theorem State.setFresh_cfg (s : State) (v : Nat) : (s.setFresh v).cfg = s.cfg := rfl
@[simp] theorem State.setFresh_schedule (s : State) (v : Nat) : (s.setFresh v).schedule = s.schedule := rfl
@[simp] theorem State.setFresh_hostReads (s : State) (v : Nat) : (s.setFresh v).hostReads = s.hostReads := rfl
@[simp] theorem State.setFresh_fresh (s : State) (v : Nat) : (s.setFresh v).fresh = v := rfl

/-! ### Accept (R100) -/

@[simp] theorem accept_phase (s : State) (w : Word) : (accept s w).phase = .busy := rfl
@[simp] theorem accept_ctrl (s : State) (w : Word) : (accept s w).ctrl = s.ctrl := rfl
@[simp] theorem accept_cmd (s : State) (w : Word) : (accept s w).cmd = w := rfl
@[simp] theorem accept_status (s : State) (w : Word) : (accept s w).status = statusAccepted s.status := rfl
@[simp] theorem accept_keyLen (s : State) (w : Word) : (accept s w).keyLen = s.keyLen := rfl
@[simp] theorem accept_inLen (s : State) (w : Word) : (accept s w).inLen = s.inLen := rfl
@[simp] theorem accept_outLen (s : State) (w : Word) : (accept s w).outLen = 0 := rfl
@[simp] theorem accept_curIvsel (s : State) (w : Word) : (accept s w).curIvsel = ctrlIvFixed s.ctrl := rfl
@[simp] theorem accept_mem (s : State) (w : Word) : (accept s w).mem = s.mem := rfl
@[simp] theorem accept_ivDraw (s : State) (w : Word) : (accept s w).ivDraw = s.ivDraw := rfl
@[simp] theorem accept_cfg (s : State) (w : Word) : (accept s w).cfg = s.cfg := rfl
@[simp] theorem accept_schedule (s : State) (w : Word) : (accept s w).schedule = s.schedule := rfl
@[simp] theorem accept_hostReads (s : State) (w : Word) : (accept s w).hostReads = s.hostReads := rfl
@[simp] theorem accept_fresh (s : State) (w : Word) : (accept s w).fresh = s.fresh := rfl

/-! ### An ignored write while BUSY (R67, R101) -/

@[simp] theorem noteBusyWrite_phase (s : State) : (noteBusyWrite s).phase = s.phase := rfl
@[simp] theorem noteBusyWrite_ctrl (s : State) : (noteBusyWrite s).ctrl = s.ctrl := rfl
@[simp] theorem noteBusyWrite_cmd (s : State) : (noteBusyWrite s).cmd = s.cmd := rfl
@[simp] theorem noteBusyWrite_status (s : State) : (noteBusyWrite s).status = putBusyWr s.status true := rfl
@[simp] theorem noteBusyWrite_keyLen (s : State) : (noteBusyWrite s).keyLen = s.keyLen := rfl
@[simp] theorem noteBusyWrite_inLen (s : State) : (noteBusyWrite s).inLen = s.inLen := rfl
@[simp] theorem noteBusyWrite_outLen (s : State) : (noteBusyWrite s).outLen = s.outLen := rfl
@[simp] theorem noteBusyWrite_curIvsel (s : State) : (noteBusyWrite s).curIvsel = s.curIvsel := rfl
@[simp] theorem noteBusyWrite_mem (s : State) : (noteBusyWrite s).mem = s.mem := rfl
@[simp] theorem noteBusyWrite_ivDraw (s : State) : (noteBusyWrite s).ivDraw = s.ivDraw := rfl
@[simp] theorem noteBusyWrite_cfg (s : State) : (noteBusyWrite s).cfg = s.cfg := rfl
@[simp] theorem noteBusyWrite_schedule (s : State) : (noteBusyWrite s).schedule = s.schedule := rfl
@[simp] theorem noteBusyWrite_hostReads (s : State) : (noteBusyWrite s).hostReads = s.hostReads := rfl
@[simp] theorem noteBusyWrite_fresh (s : State) : (noteBusyWrite s).fresh = s.fresh := rfl

/-! ### An Ok completion (R107) -/

@[simp] theorem finishOk_phase (s : State) (out : Bytes) : (finishOk s out).phase = .idle := rfl
@[simp] theorem finishOk_ctrl (s : State) (out : Bytes) : (finishOk s out).ctrl = s.ctrl := rfl
@[simp] theorem finishOk_cmd (s : State) (out : Bytes) : (finishOk s out).cmd = s.cmd := rfl
@[simp] theorem finishOk_status (s : State) (out : Bytes) : (finishOk s out).status = statusOk s.status := rfl
@[simp] theorem finishOk_keyLen (s : State) (out : Bytes) : (finishOk s out).keyLen = s.keyLen := rfl
@[simp] theorem finishOk_inLen (s : State) (out : Bytes) : (finishOk s out).inLen = s.inLen := rfl
@[simp] theorem finishOk_outLen (s : State) (out : Bytes) : (finishOk s out).outLen = BitVec.ofNat 32 out.length := rfl
@[simp] theorem finishOk_curIvsel (s : State) (out : Bytes) : (finishOk s out).curIvsel = s.curIvsel := rfl
@[simp] theorem finishOk_mem (s : State) (out : Bytes) : (finishOk s out).mem = Memory.writeBytes s.mem obufBase out := rfl
@[simp] theorem finishOk_ivDraw (s : State) (out : Bytes) : (finishOk s out).ivDraw = s.ivDraw := rfl
@[simp] theorem finishOk_cfg (s : State) (out : Bytes) : (finishOk s out).cfg = s.cfg := rfl
@[simp] theorem finishOk_schedule (s : State) (out : Bytes) : (finishOk s out).schedule = s.schedule := rfl
@[simp] theorem finishOk_hostReads (s : State) (out : Bytes) : (finishOk s out).hostReads = s.hostReads := rfl
@[simp] theorem finishOk_fresh (s : State) (out : Bytes) : (finishOk s out).fresh = s.fresh := rfl

/-! ### An error completion (R107) -/

@[simp] theorem finishErr_phase (s : State) (e : ErrorName) : (finishErr s e).phase = .idle := rfl
@[simp] theorem finishErr_ctrl (s : State) (e : ErrorName) : (finishErr s e).ctrl = s.ctrl := rfl
@[simp] theorem finishErr_cmd (s : State) (e : ErrorName) : (finishErr s e).cmd = s.cmd := rfl
@[simp] theorem finishErr_status (s : State) (e : ErrorName) : (finishErr s e).status = statusError s.status e := rfl
@[simp] theorem finishErr_keyLen (s : State) (e : ErrorName) : (finishErr s e).keyLen = s.keyLen := rfl
@[simp] theorem finishErr_inLen (s : State) (e : ErrorName) : (finishErr s e).inLen = s.inLen := rfl
@[simp] theorem finishErr_outLen (s : State) (e : ErrorName) : (finishErr s e).outLen = 0 := rfl
@[simp] theorem finishErr_curIvsel (s : State) (e : ErrorName) : (finishErr s e).curIvsel = s.curIvsel := rfl
@[simp] theorem finishErr_mem (s : State) (e : ErrorName) : (finishErr s e).mem = Memory.clear s.mem obufBase s.cfg.obufSize := rfl
@[simp] theorem finishErr_ivDraw (s : State) (e : ErrorName) : (finishErr s e).ivDraw = s.ivDraw := rfl
@[simp] theorem finishErr_cfg (s : State) (e : ErrorName) : (finishErr s e).cfg = s.cfg := rfl
@[simp] theorem finishErr_schedule (s : State) (e : ErrorName) : (finishErr s e).schedule = s.schedule := rfl
@[simp] theorem finishErr_hostReads (s : State) (e : ErrorName) : (finishErr s e).hostReads = s.hostReads := rfl
@[simp] theorem finishErr_fresh (s : State) (e : ErrorName) : (finishErr s e).fresh = s.fresh := rfl

/-! ### Reset (R270) -/

@[simp] theorem resetStep_phase (s : State) : (resetStep s).phase = .idle := rfl
@[simp] theorem resetStep_ctrl (s : State) : (resetStep s).ctrl = 0 := rfl
@[simp] theorem resetStep_cmd (s : State) : (resetStep s).cmd = 0 := rfl
@[simp] theorem resetStep_status (s : State) : (resetStep s).status = 0 := rfl
@[simp] theorem resetStep_keyLen (s : State) : (resetStep s).keyLen = 0 := rfl
@[simp] theorem resetStep_inLen (s : State) : (resetStep s).inLen = 0 := rfl
@[simp] theorem resetStep_outLen (s : State) : (resetStep s).outLen = 0 := rfl
@[simp] theorem resetStep_curIvsel (s : State) : (resetStep s).curIvsel = false := rfl
@[simp] theorem resetStep_mem (s : State) : (resetStep s).mem = [] := rfl
@[simp] theorem resetStep_ivDraw (s : State) : (resetStep s).ivDraw = s.ivDraw := rfl
@[simp] theorem resetStep_cfg (s : State) : (resetStep s).cfg = s.cfg := rfl
@[simp] theorem resetStep_schedule (s : State) : (resetStep s).schedule = s.schedule := rfl
@[simp] theorem resetStep_hostReads (s : State) : (resetStep s).hostReads = s.hostReads := rfl
@[simp] theorem resetStep_fresh (s : State) : (resetStep s).fresh = s.fresh := rfl

/-! ### Finish (R107), for either result -/

@[simp] theorem finish_ctrl (s : State) (r : Result) : (finish s r).ctrl = s.ctrl := by
  unfold finish; split <;> rfl
@[simp] theorem finish_cmd (s : State) (r : Result) : (finish s r).cmd = s.cmd := by
  unfold finish; split <;> rfl
@[simp] theorem finish_keyLen (s : State) (r : Result) : (finish s r).keyLen = s.keyLen := by
  unfold finish; split <;> rfl
@[simp] theorem finish_inLen (s : State) (r : Result) : (finish s r).inLen = s.inLen := by
  unfold finish; split <;> rfl
@[simp] theorem finish_curIvsel (s : State) (r : Result) : (finish s r).curIvsel = s.curIvsel := by
  unfold finish; split <;> rfl
@[simp] theorem finish_ivDraw (s : State) (r : Result) : (finish s r).ivDraw = s.ivDraw := by
  unfold finish; split <;> rfl
@[simp] theorem finish_cfg (s : State) (r : Result) : (finish s r).cfg = s.cfg := by
  unfold finish; split <;> rfl
@[simp] theorem finish_schedule (s : State) (r : Result) : (finish s r).schedule = s.schedule := by
  unfold finish; split <;> rfl
@[simp] theorem finish_hostReads (s : State) (r : Result) : (finish s r).hostReads = s.hostReads := by
  unfold finish; split <;> rfl
@[simp] theorem finish_fresh (s : State) (r : Result) : (finish s r).fresh = s.fresh := by
  unfold finish; split <;> rfl

@[simp] theorem finish_phase (s : State) (r : Result) : (finish s r).phase = .idle := by
  unfold finish; split <;> rfl

/-- Everything Finish can do: an Ok completion of an output that fits, or an error completion with the result's error or
OUTPUT_OVERFLOW. -/
theorem finish_cases (s : State) (r : Result) :
    (∃ out, r = .ok out ∧ out.length ≤ s.cfg.obufSize ∧ finish s r = finishOk s out)
    ∨ (∃ out, r = .ok out ∧ s.cfg.obufSize < out.length ∧ finish s r = finishErr s .outputOverflow)
    ∨ (∃ e, r = .err e ∧ finish s r = finishErr s e) := by
  cases r with
  | ok out =>
    rcases Nat.lt_or_ge s.cfg.obufSize out.length with h | h
    · exact .inr (.inl ⟨out, rfl, h, by simp [finish, limitOutput, h]⟩)
    · exact .inl ⟨out, rfl, h, by simp [finish, limitOutput, Nat.not_lt.mpr h]⟩
  | err e => exact .inr (.inr ⟨e, rfl, rfl⟩)

@[simp] theorem byteAt_def (s : State) (a : Nat) : s.byteAt a = Memory.read s.mem a := rfl

end Sys2Proof.Machine
end

