-- ==== Sys2Proof/Laws/Operands.lean ====
section
/-! SUPPORT. Once for each shared operation, everything it can do: the operand views, the frame around a command's function,
and Finish as the completion the spec describes. -/

namespace Sys2Proof.Machine

/-! ### Operand views -/

@[simp] theorem keyBuf_length (s : State) : (keyBuf s).length = 32 := by simp [keyBuf, bufferBytes, keybufSize]

@[simp] theorem ivBuf_length (s : State) : (ivBuf s).length = 16 := by simp [ivBuf, bufferBytes, ivbufSize]

@[simp] theorem filledInput_length (s : State) : (filledInput s).length = inLength s := by
  simp [filledInput, inputCells]

@[simp] theorem inputCells_length (s : State) : (inputCells s).length = inLength s := by simp [inputCells]

/-- P is what the input is, when every byte of it was written. -/
theorem filledInput_of_inputIs {s : State} {p : Bytes} (h : InputIs s p) : filledInput s = p := by
  obtain ⟨hl, -, hb⟩ := h
  refine List.ext_getElem (by simpa using hl) fun j h1 h2 => ?_
  have := hb j h2
  simp only [byteAt_def, List.getD_eq_getElem?_getD, List.getElem?_eq_getElem h2, Option.getD_some] at this
  simp [filledInput, inputCells, this]

/-- A written input is read whole, whatever the function reads. -/
theorem readInput_of_inputIs {s : State} {p : Bytes} (h : InputIs s p) (reads : Bytes → Nat → Bool) :
    readInput s reads = some p := by
  have hb := h.2.2
  unfold readInput
  rw [if_pos, filledInput_of_inputIs h]
  simp only [List.all_eq_true, List.mem_range, Bool.or_eq_true]
  intro j hj
  exact .inr (by rw [hb j (h.1 ▸ hj)]; rfl)

/-- Everything `readInput` can answer: the filled input, and then every byte that is read holds a value. -/
theorem readInput_eq_some {s : State} {reads : Bytes → Nat → Bool} {p : Bytes} (h : readInput s reads = some p) :
    p = filledInput s ∧ ∀ j, j < inLength s → reads (filledInput s) j = true →
      (s.byteAt (ibufBase + j)).isSome = true := by
  unfold readInput at h
  split at h
  · next hall =>
    refine ⟨(Option.some.inj h).symm, fun j hj hr => ?_⟩
    have := List.all_eq_true.mp hall j (List.mem_range.mpr hj)
    simpa [hr] using this
  · exact nomatch h

/-! ### The frame around a command's function -/

/-- Everything `completeWith` can do. -/
theorem completeWith_cases (s : State) (reads : Bytes → Nat → Bool) (op : Bytes → Result) :
    (∃ p, readInput s reads = some p ∧ completeWith s reads op = .next (finish s (op p)))
    ∨ (readInput s reads = none ∧ completeWith s reads op = .fault .unwrittenInput) := by
  unfold completeWith
  cases h : readInput s reads with
  | none => exact .inr ⟨rfl, rfl⟩
  | some p => exact .inl ⟨p, rfl, rfl⟩

/-- With a written input the command completes. -/
theorem completeWith_of_inputIs {s : State} {p : Bytes} (h : InputIs s p) (reads : Bytes → Nat → Bool)
    (op : Bytes → Result) : completeWith s reads op = .next (finish s (op p)) := by
  rw [completeWith, readInput_of_inputIs h]

/-- Everything `checkInput` can do. -/
theorem checkInput_cases (s : State) (rest : Host.Outcome State Fault Refusal) :
    (inputTooLong s = true ∧ checkInput s rest = .next (finish s (.err .inputOverflow)))
    ∨ (inputTooLong s = false ∧ checkInput s rest = rest) := by
  cases h : inputTooLong s <;> simp [checkInput, h]

theorem inputTooLong_of_inputIs {s : State} {p : Bytes} (h : InputIs s p) : inputTooLong s = false := by
  simp [inputTooLong, h.1, h.2.1]

theorem checkInput_of_inputIs {s : State} {p : Bytes} (h : InputIs s p) (rest : Host.Outcome State Fault Refusal) :
    checkInput s rest = rest := by
  simp [checkInput, inputTooLong_of_inputIs h]

/-- Everything `withIv` can do. -/
theorem withIv_cases (s : State) (k : State → Bytes → Host.Outcome State Fault Refusal) :
    (s.curIvsel = true ∧ withIv s k = k s (ivBuf s))
    ∨ (∃ d, s.curIvsel = false ∧ s.ivDraw = some d ∧ withIv s k = k (s.setIvDraw none) d.toList)
    ∨ (s.curIvsel = false ∧ s.ivDraw = none ∧ withIv s k = .next s) := by
  unfold withIv
  cases hc : s.curIvsel
  · cases hd : s.ivDraw with
    | none => exact .inr (.inr ⟨rfl, rfl, by simp⟩)
    | some d => exact .inr (.inl ⟨d, rfl, rfl, by simp⟩)
  · exact .inl ⟨rfl, by simp⟩

/-! ### What a taken draw leaves: every view of the state but the offer -/

@[simp] theorem keyBuf_setIvDraw (s : State) (v : Option Draw) : keyBuf (s.setIvDraw v) = keyBuf s := rfl
@[simp] theorem keyLength_setIvDraw (s : State) (v : Option Draw) : keyLength (s.setIvDraw v) = keyLength s := rfl
@[simp] theorem ivBuf_setIvDraw (s : State) (v : Option Draw) : ivBuf (s.setIvDraw v) = ivBuf s := rfl
@[simp] theorem inLength_setIvDraw (s : State) (v : Option Draw) : inLength (s.setIvDraw v) = inLength s := rfl
@[simp] theorem filledInput_setIvDraw (s : State) (v : Option Draw) : filledInput (s.setIvDraw v) = filledInput s := rfl
@[simp] theorem readInput_setIvDraw (s : State) (v : Option Draw) (reads : Bytes → Nat → Bool) :
    readInput (s.setIvDraw v) reads = readInput s reads := rfl

theorem inputIs_setIvDraw {s : State} {p : Bytes} (h : InputIs s p) (v : Option Draw) : InputIs (s.setIvDraw v) p := h

/-! ### Finish is the completion of R107 -/

/-- No byte of OBUF, or after it, is a byte of KEYBUF or IVBUF. -/
theorem unlisted_obuf (j : Nat) : Memory.unlisted (obufBase + j) = none := by
  unfold Memory.unlisted
  rw [if_neg]
  simp only [ivbufBase, ivbufSize, obufBase, keybufBase]
  omega

theorem finishOk_completes (s : State) (out : Bytes) (h : out.length ≤ s.cfg.obufSize) :
    CompletesOk s (finishOk s out) out where
  fits := h
  output j hj := by
    simp only [byteAt_def, finishOk_mem, Memory.read_writeBytes]
    rw [if_pos ⟨Nat.le_add_right _ _, by omega⟩, Nat.add_sub_cancel_left]
  otherBytes a ha := by simp only [byteAt_def, finishOk_mem, Memory.read_writeBytes, if_neg ha]
  outLen := rfl
  busy := by simp
  done := by simp
  err := by simp
  errCode := by simp
  busyWr := by simp
  otherStatus := by simp
  phase := rfl
  registers := ⟨rfl, rfl, rfl, rfl, rfl⟩
  others := ⟨rfl, rfl, rfl, rfl⟩

theorem finishErr_completes (s : State) (e : ErrorName) : CompletesErr s (finishErr s e) e where
  unspecified j hj := by
    simp only [byteAt_def, finishErr_mem, Memory.read_clear]
    rw [if_pos ⟨Nat.le_add_right _ _, by omega⟩, unlisted_obuf]
  otherBytes a ha := by simp only [byteAt_def, finishErr_mem, Memory.read_clear, if_neg ha]
  outLen := rfl
  busy := by simp
  done := by simp
  err := by simp
  errCode := by simp
  busyWr := by simp
  otherStatus := by simp
  phase := rfl
  registers := ⟨rfl, rfl, rfl, rfl, rfl⟩
  others := ⟨rfl, rfl, rfl, rfl⟩

/-- R107 whole: Finish completes with the function's result. -/
theorem finish_completes (s : State) (r : Result) : Completes s (finish s r) r := by
  rcases finish_cases s r with ⟨out, rfl, h, hf⟩ | ⟨out, rfl, h, hf⟩ | ⟨e, rfl, hf⟩
  · rw [hf]; simp only [Completes, if_pos h]; exact finishOk_completes s out h
  · rw [hf]; simp only [Completes, if_neg (Nat.not_le.mpr h)]; exact finishErr_completes s _
  · rw [hf]; exact finishErr_completes s e

/-! ### Illegal words -/

theorem completeIllegal_eq (s : State) : completeIllegal s = .next (finishErr s .illegalCommand) := rfl

end Sys2Proof.Machine
end

