-- ==== Sys2Proof/Laws/Exec.lean ====
section
/-! SUPPORT. Once for all commands, everything a completion step can do: wait for a draw, fault on an UNWRITTEN byte, or
finish with a result. -/

namespace Sys2Proof.Machine

/-- What every meaning can answer, from the state `s`. -/
inductive Answer (s : State) : Host.Outcome State Fault Refusal → Prop where
  /-- No draw is on offer: nothing changes (R105). -/
  | waits (h : s.curIvsel = false ∧ s.ivDraw = none) : Answer s (.next s)
  /-- The function read an UNWRITTEN byte (U3). -/
  | faults (h : inputTooLong s = false) : Answer s (.fault .unwrittenInput)
  /-- The command finished without taking a draw. -/
  | finishes (r : Result) : Answer s (.next (finish s r))
  /-- The command finished and took the draw on offer. -/
  | finishesWithDraw (r : Result) (d : Draw) (h : s.curIvsel = false ∧ s.ivDraw = some d) :
      Answer s (.next (finish (s.setIvDraw none) r))

theorem answer_completeWith (s : State) (h : inputTooLong s = false) (reads : Bytes → Nat → Bool) (op : Bytes → Result) :
    Answer s (completeWith s reads op) := by
  rcases completeWith_cases s reads op with ⟨p, -, he⟩ | ⟨-, he⟩
  · rw [he]; exact .finishes _
  · rw [he]; exact .faults h

theorem answer_checkInput (s : State) (rest : Host.Outcome State Fault Refusal)
    (h : inputTooLong s = false → Answer s rest) : Answer s (checkInput s rest) := by
  rcases checkInput_cases s rest with ⟨-, he⟩ | ⟨hl, he⟩
  · rw [he]; exact .finishes _
  · rw [he]; exact h hl

theorem answer_withIv (s : State) (h : inputTooLong s = false) (reads : Bytes → Nat → Bool)
    (op : State → Bytes → Bytes → Result) :
    Answer s (withIv s (fun t iv => completeWith t reads (op t iv))) := by
  rcases withIv_cases s (fun t iv => completeWith t reads (op t iv)) with ⟨-, he⟩ | ⟨d, hc, hd, he⟩ | ⟨hc, hd, he⟩
  · rw [he]; exact answer_completeWith s h reads _
  · rw [he]
    rcases completeWith_cases (s.setIvDraw none) reads (op (s.setIvDraw none) d.toList) with ⟨p, -, hf⟩ | ⟨-, hf⟩
    · rw [hf]; exact .finishesWithDraw _ d ⟨hc, hd⟩
    · rw [hf]; exact .faults h
  · rw [he]; exact .waits ⟨hc, hd⟩

/-- Everything `exec` can do, for every command in every state. -/
theorem exec_answer (i : Instr) (s : State) : Answer s (exec i s) := by
  cases i with
  | keynorm => exact .finishes _
  | pad blksz => exact answer_checkInput s _ fun h => answer_completeWith s h _ _
  | unpadS => exact answer_checkInput s _ fun h => answer_completeWith s h _ _
  | unpadL => exact answer_checkInput s _ fun h => answer_completeWith s h _ _
  | cfbEnc => exact answer_checkInput s _ fun h => answer_withIv s h _ _
  | cfbDec => exact answer_checkInput s _ fun h => answer_completeWith s h _ _
  | ecbEnc typed => exact answer_checkInput s _ fun h => answer_completeWith s h _ _
  | ecbDec typed => exact answer_checkInput s _ fun h => answer_completeWith s h _ _
  | ctrEnc =>
    refine answer_checkInput s _ fun h => ?_
    split
    · exact answer_withIv s h _ _
    · exact answer_completeWith s h _ _
  | ctrDec => exact answer_checkInput s _ fun h => answer_completeWith s h _ _
  | hexEnc => exact answer_checkInput s _ fun h => answer_completeWith s h _ _
  | hexDec => exact answer_checkInput s _ fun h => answer_completeWith s h _ _
  | b64Enc => exact answer_checkInput s _ fun h => answer_completeWith s h _ _
  | b64Dec => exact answer_checkInput s _ fun h => answer_completeWith s h _ _

/-! ### The steps around `exec` -/

/-- Everything the controller's turn can do. -/
theorem controllerTurn_cases (s : State) :
    (s.phase = .idle ∧ controllerTurn s = .next s)
    ∨ (∃ i, s.phase = .busy ∧ decode s.cmd = .ok i ∧ controllerTurn s = exec i s)
    ∨ (∃ e, s.phase = .busy ∧ decode s.cmd = .error e ∧ controllerTurn s = .next (finish s (.err .illegalCommand))) := by
  unfold controllerTurn
  cases hp : s.phase with
  | idle => exact .inl ⟨rfl, rfl⟩
  | busy =>
    cases hd : decode s.cmd with
    | ok i => exact .inr (.inl ⟨i, rfl, rfl, rfl⟩)
    | error e => exact .inr (.inr ⟨e, rfl, rfl, rfl⟩)

/-- Everything the controller's turn can answer. -/
theorem controllerTurn_answer (s : State) :
    (s.phase = .idle ∧ controllerTurn s = .next s) ∨ (s.phase = .busy ∧ Answer s (controllerTurn s)) := by
  rcases controllerTurn_cases s with h | ⟨i, hp, -, he⟩ | ⟨e, hp, -, he⟩
  · exact .inl h
  · exact .inr ⟨hp, he ▸ exec_answer i s⟩
  · exact .inr ⟨hp, he ▸ .finishes _⟩

/-- A step with nothing scheduled is the controller's turn. -/
theorem step_nil {s : State} (h : s.schedule = []) : step s = controllerTurn s := by simp [step, h]

/-- A step with an event scheduled delivers it. -/
theorem step_cons {s : State} {e : Event} {rest : List Event} (h : s.schedule = e :: rest) :
    step s = deliver e (s.setSchedule rest) := by simp [step, h]

end Sys2Proof.Machine
end

