-- ==== Sys2Proof/Laws/HostPort.lean ====
section
/-! SUPPORT. Once for each operation of the host port, everything it can do. -/

namespace Sys2Proof.Machine

/-- Everything a host read can do. -/
theorem hostRead_cases (s : State) (addr : Addr) (n : Width) :
    (admitted addr n = true
      ∧ hostRead s addr n = .next ((s.setHostReads (readValue s addr n :: s.hostReads)).setFresh (s.fresh + 1)))
    ∨ (admitted addr n = false ∧ hostRead s addr n = .fault .notAdmitted) := by
  cases h : admitted addr n <;> simp [hostRead, h]

/-- Everything a host write can do. -/
theorem hostWrite_cases (s : State) (addr : Addr) (n : Width) (v : Word) :
    (admitted addr n = true ∧ addr.toNat ≤ 0x00FF ∧ hostWrite s addr n v = .next (writeRegister s addr.toNat v))
    ∨ (admitted addr n = true ∧ 0x00FF < addr.toNat
      ∧ hostWrite s addr n v = .next (writeLanes s addr.toNat (dataBytes n v)))
    ∨ (admitted addr n = false ∧ hostWrite s addr n v = .fault .notAdmitted) := by
  cases h : admitted addr n
  · exact .inr (.inr ⟨rfl, by simp [hostWrite, h]⟩)
  · rcases Nat.lt_or_ge 0x00FF addr.toNat with ha | ha
    · exact .inr (.inl ⟨rfl, ha, by simp [hostWrite, h, Nat.not_le.mpr ha]⟩)
    · exact .inl ⟨rfl, ha, by simp [hostWrite, h, ha]⟩

/-- Everything a write to the register range can do. -/
theorem writeRegister_cases (s : State) (offset : Nat) (v : Word) :
    writeRegister s offset v = s.setCtrl (ctrlStored v)
    ∨ (s.phase = .idle ∧ (writeRegister s offset v = accept s v ∨ writeRegister s offset v = s.setKeyLen v
        ∨ writeRegister s offset v = s.setInLen v))
    ∨ (s.phase = .busy ∧ writeRegister s offset v = noteBusyWrite s)
    ∨ writeRegister s offset v = s.setStatus (statusAfterWrite s.status v)
    ∨ writeRegister s offset v = s := by
  unfold writeRegister unlessBusy
  cases hp : s.phase <;> split_ifs <;> simp_all

/-- Everything a write of one byte lane can do. -/
theorem writeLane_cases (s : State) (a : Nat) (b : Byte) :
    (s.phase = .idle ∧ isBufferAddress s.cfg a ∧ regionOf s.cfg a ≠ .obuf
      ∧ writeLane s a b = s.setMem (Memory.write s.mem a b))
    ∨ (s.phase = .busy ∧ writeLane s a b = noteBusyWrite s)
    ∨ writeLane s a b = s := by
  unfold writeLane unlessBusy isBufferAddress
  cases hp : s.phase <;> cases hr : regionOf s.cfg a <;> simp

@[simp] theorem dataBytes_length (n : Width) (v : Word) : (dataBytes n v).length = n.bytes := by simp [dataBytes]

end Sys2Proof.Machine
end

