-- ==== Sys2Proof/Laws/PerInstr.lean ====
section
/-! SUPPORT. A family of statements made per command: the words the encoder writes are in R80's format. -/

namespace Sys2Proof.Laws

/-- The word of a command carries its OP, and RSVD is zero (R80); BLKSZ is PAD's block size modulo 256, and zero in every
other command; TYPED is the entry point of an ECB command, and zero in every other (R81, R84(b)). -/
def EncodingFields.Statement (i : Instr) : Prop :=
  fieldOp (encode i) = i.op ∧ fieldRsvd (encode i) = 0
    ∧ fieldBlksz (encode i) = (match i with | .pad blksz => BitVec.ofNat 8 blksz | _ => 0)
    ∧ fieldTyped (encode i) = (match i with | .ecbEnc typed => typed | .ecbDec typed => typed | _ => false)

/-- The four fields of a word made of four fields. -/
theorem encodeFields_fields (typed : Bool) (blksz op : BitVec 8) :
    fieldOp (encodeFields typed blksz op) = op ∧ fieldRsvd (encodeFields typed blksz op) = 0
      ∧ fieldBlksz (encodeFields typed blksz op) = blksz ∧ fieldTyped (encodeFields typed blksz op) = typed := by
  refine ⟨?_, ?_, ?_, ?_⟩
  · refine BitVec.eq_of_getLsbD_eq fun j hj => ?_
    simp [fieldOp, encodeFields, hj, show j < 16 by omega, show j < 32 by omega]
  · refine BitVec.eq_of_getLsbD_eq fun j hj => ?_
    have h : ∀ (n : Nat) (v : BitVec n) (i : Nat), n ≤ i → v.getLsbD i = false := fun n v i hi =>
      BitVec.getLsbD_of_ge v i hi
    simp [fieldRsvd, encodeFields, h 8 _ (17 + j) (by omega), h 8 _ (17 + j - 8) (by omega),
      h 1 _ (17 + j - 16) (by omega)]
  · refine BitVec.eq_of_getLsbD_eq fun j hj => ?_
    simp [fieldBlksz, encodeFields, hj, show 8 + j < 16 by omega, show 8 + j < 32 by omega]
  · cases typed <;> simp [fieldTyped, encodeFields]

theorem EncodingFields.keynorm : EncodingFields.Statement (.keynorm) := encodeFields_fields _ _ _

theorem EncodingFields.pad (blksz : Nat) : EncodingFields.Statement (.pad blksz) := encodeFields_fields _ _ _

theorem EncodingFields.unpadS : EncodingFields.Statement (.unpadS) := encodeFields_fields _ _ _

theorem EncodingFields.unpadL : EncodingFields.Statement (.unpadL) := encodeFields_fields _ _ _

theorem EncodingFields.cfbEnc : EncodingFields.Statement (.cfbEnc) := encodeFields_fields _ _ _

theorem EncodingFields.cfbDec : EncodingFields.Statement (.cfbDec) := encodeFields_fields _ _ _

theorem EncodingFields.ecbEnc (typed : Bool) : EncodingFields.Statement (.ecbEnc typed) := encodeFields_fields _ _ _

theorem EncodingFields.ecbDec (typed : Bool) : EncodingFields.Statement (.ecbDec typed) := encodeFields_fields _ _ _

theorem EncodingFields.ctrEnc : EncodingFields.Statement (.ctrEnc) := encodeFields_fields _ _ _

theorem EncodingFields.ctrDec : EncodingFields.Statement (.ctrDec) := encodeFields_fields _ _ _

theorem EncodingFields.hexEnc : EncodingFields.Statement (.hexEnc) := encodeFields_fields _ _ _

theorem EncodingFields.hexDec : EncodingFields.Statement (.hexDec) := encodeFields_fields _ _ _

theorem EncodingFields.b64Enc : EncodingFields.Statement (.b64Enc) := encodeFields_fields _ _ _

theorem EncodingFields.b64Dec : EncodingFields.Statement (.b64Dec) := encodeFields_fields _ _ _

end Sys2Proof.Laws
end

