-- ==== Sys2Proof/Tests/Slice0.lean ====
section
/-! SUPPORT. Tests, each on one step of a small state, with expected values from spec/95_test_vectors.md (named by its ids) and
the rules' own examples; the smoke tests of WellFormed; and, for each statement with hypotheses, a witness that meets
them. -/

namespace Sys2Proof.Machine.Tests

/-! ### Builders -/

/-- `n` bytes written as one hex number, first byte first. -/
def hex (n v : Nat) : Bytes := beBytes n v

/-- `n` copies of a byte. -/
def rep (n : Nat) (v : Byte) : Bytes := List.replicate n v

/-- The reset state with parameters `c`, key bytes and KEY_LEN, IVBUF, and input. -/
def setup (c : Params) (kb : Bytes) (kl : Nat) (iv p : Bytes) : State :=
  ((((State.resetWith c).setKeyLen (BitVec.ofNat 32 kl)).setInLen (BitVec.ofNat 32 p.length)).setMem
    (Memory.writeBytes (Memory.writeBytes (Memory.writeBytes [] keybufBase kb) ivbufBase iv) ibufBase p)).setCurIvsel true

/-- The default configuration with the input `p` and no key. -/
def withInput (p : Bytes) : State := setup Params.default [] 0 [] p

/-- The key of the vectors, "mykey123", KEY_LEN = 8. -/
def kmy : Bytes := hex 8 0x6d796b6579313233

/-- K128 of the vectors. -/
def k128 : Bytes := hex 16 0x2b7e151628aed2a6abf7158809cf4f3c

/-- IV0 and IVf of the vectors. -/
def iv0 : Bytes := hex 16 0x000102030405060708090a0b0c0d0e0f
def ivf : Bytes := hex 16 0xf0f1f2f3f4f5f6f7f8f9fafbfcfdfeff

/-- "hello world". -/
def hello : Bytes := hex 11 0x68656c6c6f20776f726c64

/-- The small configuration of the overflow vectors. -/
def small : Params := { Params.default with ibufSize := 64, obufSize := 64 }

/-- An Ok completion with output `out`: STATUS = 0x00000002, OUT_LEN, OBUF, phase IDLE. -/
def okIs (o : Host.Outcome State Fault Refusal) (out : Bytes) : Bool :=
  match o with
  | .next t => decide (t.status = 0x00000002) && decide (t.outLen = BitVec.ofNat 32 out.length) && decide (t.phase = .idle)
      && decide ((List.range out.length).map (fun j => t.byteAt (obufBase + j)) = out.map some)
  | _ => false

/-- A completion that leaves STATUS = `status` and OUT_LEN = 0. -/
def statusIs (o : Host.Outcome State Fault Refusal) (status : Word) : Bool :=
  match o with
  | .next t => decide (t.status = status) && decide (t.outLen = 0) && decide (t.phase = .idle)
  | _ => false

/-- A next state of which `p` holds. -/
def nextIs (o : Host.Outcome State Fault Refusal) (p : State → Bool) : Bool :=
  match o with
  | .next t => p t
  | _ => false

/-- A fault with reason `f`. -/
def faultIs (o : Host.Outcome State Fault Refusal) (f : Fault) : Bool :=
  match o with
  | .fault r => decide (r = f)
  | _ => false

/-! ### WellFormed: an ill-formed term for each check -/

theorem test_wf_pad_255 : (Instr.pad 255).wellFormed = true := by decide
theorem test_wf_pad_256_refused : (Instr.pad 256).wellFormed = false := by decide
theorem test_legal_default : Params.default.legal = true := by decide
theorem test_legal_ibuf_not_multiple_of_4 : (Params.mk 4098 8224 true false).legal = false := by decide
theorem test_legal_ibuf_below_64 : (Params.mk 60 8224 true false).legal = false := by decide
theorem test_legal_ibuf_above_16384 : (Params.mk 16388 8224 true false).legal = false := by decide
theorem test_legal_obuf_not_multiple_of_4 : (Params.mk 4096 8226 true false).legal = false := by decide
theorem test_legal_obuf_below_64 : (Params.mk 4096 60 true false).legal = false := by decide
theorem test_legal_obuf_above_32768 : (Params.mk 4096 32772 true false).legal = false := by decide

/-! ### Decode: words written out from R82's patterns, and R84's illegal words -/

theorem test_decode_keynorm : decode 0b00000000000000000000000000000001#32 = .ok .keynorm := by decide
theorem test_decode_pad : decode 0b00000000000000001111111100000010#32 = .ok (.pad 255) := by decide
theorem test_decode_unpadS : decode 0b00000000000000000000000000000011#32 = .ok .unpadS := by decide
theorem test_decode_unpadL : decode 0b00000000000000000000000000000100#32 = .ok .unpadL := by decide
theorem test_decode_cfbEnc : decode 0b00000000000000000000000000010000#32 = .ok .cfbEnc := by decide
theorem test_decode_cfbDec : decode 0b00000000000000000000000000010001#32 = .ok .cfbDec := by decide
theorem test_decode_ecbEnc : decode 0b00000000000000010000000000010010#32 = .ok (.ecbEnc true) := by decide
theorem test_decode_ecbDec : decode 0b00000000000000000000000000010011#32 = .ok (.ecbDec false) := by decide
theorem test_decode_ctrEnc : decode 0b00000000000000000000000000010100#32 = .ok .ctrEnc := by decide
theorem test_decode_ctrDec : decode 0b00000000000000000000000000010101#32 = .ok .ctrDec := by decide
theorem test_decode_hexEnc : decode 0b00000000000000000000000000100000#32 = .ok .hexEnc := by decide
theorem test_decode_hexDec : decode 0b00000000000000000000000000100001#32 = .ok .hexDec := by decide
theorem test_decode_b64Enc : decode 0b00000000000000000000000000100010#32 = .ok .b64Enc := by decide
theorem test_decode_b64Dec : decode 0b00000000000000000000000000100011#32 = .ok .b64Dec := by decide

/-- V-DEC-7 to V-DEC-9. -/
theorem test_decode_reserved_op :
    [0x00000000, 0x00000005, 0x0000000F, 0x00000016, 0x0000001F, 0x00000024, 0x000000FF, 0x00000030, 0x00000031].map decode
      = List.replicate 9 (.error .reservedOp) := by decide

/-- V-DEC-10 to V-DEC-15. -/
theorem test_decode_reserved_field :
    [0x00000110, 0x00010002, 0x00010010, 0x00010014, 0x00000112, 0x00020013, 0x80000001].map decode
      = List.replicate 7 (.error .reservedField) := by decide

theorem test_encode_pad_16 : encode (.pad 16) = 0x00001002 := by decide
theorem test_encode_ecbDec_typed : encode (.ecbDec true) = 0x00010013 := by decide

/-! ### The AES parameter and the modes (spec/95_test_vectors.md section 1.2) -/

/-- KAT-1 to KAT-3: AES-128, -192 and -256. -/
theorem test_aes128 : aesEnc (hex 16 0x000102030405060708090a0b0c0d0e0f) (hex 16 0x00112233445566778899aabbccddeeff)
    = hex 16 0x69c4e0d86a7b0430d8cdb78070b4c55a := by decide +kernel
theorem test_aes192 : aesEnc (hex 24 0x000102030405060708090a0b0c0d0e0f1011121314151617)
    (hex 16 0x00112233445566778899aabbccddeeff) = hex 16 0xdda97ca4864cdfe06eaf70a0ec0d7191 := by decide +kernel
theorem test_aes256 : aesEnc (hex 32 0x000102030405060708090a0b0c0d0e0f101112131415161718191a1b1c1d1e1f)
    (hex 16 0x00112233445566778899aabbccddeeff) = hex 16 0x8ea2b7ca516745bfeafc49904b496089 := by decide +kernel

/-- KAT-4 for AES-256. -/
theorem test_aes256_dec : aesDec (hex 32 0x000102030405060708090a0b0c0d0e0f101112131415161718191a1b1c1d1e1f)
    (hex 16 0x8ea2b7ca516745bfeafc49904b496089) = hex 16 0x00112233445566778899aabbccddeeff := by decide +kernel

/-- The first two blocks of PSP. -/
def psp : Bytes := hex 32 0x6bc1bee22e409f96e93d7e117393172aae2d8a571e03ac9c9eb76fac45af8e51

/-- KAT-7 to KAT-9, their first two blocks. -/
theorem test_ecb_kat : ecbEncrypt fips197 k128 psp
    = hex 32 0x3ad77bb40d7a3660a89ecaf32466ef97f5d3d58503b9699de785895a96fdbaaf := by decide +kernel
theorem test_cfb_kat : cfbEncrypt fips197 k128 iv0 psp
    = hex 32 0x3b3fd92eb72dad20333449f8e83cfb4ac8a64537a0b3a93fcde3cdad9f1ce58b := by decide +kernel
theorem test_ctr_kat : ctrXcrypt fips197 k128 ivf psp
    = hex 32 0x874d6191b620e3261bef6864990db6ce9806f66b7970fdff8617187bb9fffdff := by decide +kernel

/-! ### KEYNORM -/

/-- V-KN-3: bytes at and beyond KEY_LEN are ignored. -/
theorem test_keynorm_short : okIs (exec .keynorm (setup Params.default (hex 16 0x000102030405060708090a0b0c0d0e0f) 3 [] []))
    (hex 3 0x000102 ++ rep 13 0) = true := by decide

/-- V-KN-7: no INPUT_OVERFLOW. -/
theorem test_keynorm_long_input : okIs (exec .keynorm ((setup Params.default iv0 16 [] []).setInLen 5000)) iv0 = true := by
  decide

/-! ### PAD -/

/-- V-PAD-6, and V-PAD-2: a full block is added. -/
theorem test_pad : okIs (exec (.pad 16) (withInput (hex 3 0x616263))) (hex 3 0x616263 ++ rep 13 0x0d) = true := by
  decide
theorem test_pad_full_block : okIs (exec (.pad 16) (withInput (rep 16 0x41))) (rep 16 0x41 ++ rep 16 0x10) = true := by
  decide

/-! ### UNPAD_S and UNPAD_L -/

/-- V-UNP-13 and V-UNP-7. -/
theorem test_unpadS : okIs (exec .unpadS (withInput (hex 3 0x616263 ++ rep 13 0x0d))) (hex 3 0x616263) = true := by
  decide
theorem test_unpadS_wrong_byte : statusIs (exec .unpadS (withInput (rep 15 0x41 ++ [0x10]))) 0x00000606 = true := by
  decide

/-- V-UNP-11: no ceiling and no byte check; V-UNP-12: unchanged. -/
theorem test_unpadL : okIs (exec .unpadL (withInput (rep 31 0x41 ++ [0x11]))) (rep 15 0x41) = true := by decide
theorem test_unpadL_unchanged : okIs (exec .unpadL (withInput [0xff])) [0xff] = true := by decide

/-! ### CFB -/

/-- V-CFB-4, "000102030405060708090a0b0c0d0e0f7e230bc3060a12ab60f037465280ebfdc6". -/
theorem test_cfbEnc : okIs (exec .cfbEnc (setup Params.default kmy 8 iv0 (rep 17 0x41)))
    (hexEncode (iv0 ++ hex 17 0x7e230bc3060a12ab60f037465280ebfdc6)) = true := by decide +kernel

/-- V-CFB-11, and V-CFB-10: exactly an IV. -/
theorem test_cfbDec : okIs (exec .cfbDec (setup Params.default kmy 8 []
    (hex 54 0x303030313032303330343035303630373038303930613062306330643065306635373037323665653238366232343835353364643132)))
    hello = true := by decide +kernel
theorem test_cfbDec_iv_alone : okIs (exec .cfbDec (setup Params.default kmy 8 [] (hexEncode iv0))) [] = true := by
  decide

/-! ### ECB -/

/-- V-ECB-2, "da7f01f48a2b8c3347c7352bc914d4c5". -/
theorem test_ecbEnc : okIs (exec (.ecbEnc false) (setup Params.default kmy 8 [] hello))
    (hex 32 0x6461376630316634386132623863333334376337333532626339313464346335) = true := by decide +kernel

/-- V-ECB-5: the lenient unpad has no ceiling. -/
theorem test_ecbDec_lenient : okIs (exec (.ecbDec true) (setup Params.default kmy 8 []
    (hexEncode (hex 32 0xf7ea0da2bbabec932daee95bf207d1da99014b7f1a8418f051bc54b58902fbf8)))) (rep 15 0x41) = true := by
  decide +kernel

/-- V-ECB-9: the sentinel, and the typed error. -/
theorem test_ecbDec_sentinel :
    (okIs (exec (.ecbDec false) (setup Params.default kmy 8 [] (hex 4 0x61626364))) []
      && statusIs (exec (.ecbDec true) (setup Params.default kmy 8 [] (hex 4 0x61626364))) 0x00000906) = true := by
  decide

/-! ### CTR -/

/-- V-CTR-1, "8PHy8/T19vf4+fr7/P3+/4Tpsx/3QAvfgL5ycO+bpOE=", and V-CTR-5, "/////////////////////8uzx0ADtse1SHE9W34/6+08+GQDFbeWvDFN/0i2FFtg": the counter wraps. -/
theorem test_ctrEnc : okIs (exec .ctrEnc (setup Params.default k128 16 ivf hello))
    (hex 44 0x38504879382f5431397666342b6672372f50332b2f34547073782f3351417666674c3579634f2b62704f453d) = true := by decide +kernel
theorem test_ctrEnc_counter_wraps : okIs (exec .ctrEnc (setup Params.default k128 16 (rep 16 0xff) (rep 17 0x41)))
    (hex 64 0x2f2f2f2f2f2f2f2f2f2f2f2f2f2f2f2f2f2f2f2f2f38757a7830414474736531534845395733342f362b30382b475144466265577644464e2f30693246467467) = true := by
  decide +kernel

/-- V-CTR-12: a 24-byte key; V-CTR-16: the plaintext's last byte becomes 0x00. -/
theorem test_ctrDec_aes192 : okIs (exec .ctrDec (setup Params.default (hex 24 0x000102030405060708090a0b0c0d0e0f1011121314151617) 24 []
    (hex 44 0x38504879382f5431397666342b6672372f50332b2f30506e4a4434373068372f77625653422f58677266593d))) hello = true := by decide +kernel
theorem test_ctrDec_tampered : statusIs (exec .ctrDec (setup Params.default k128 16 []
    (hex 44 0x38504879382f5431397666342b6672372f50332b2f34547073782f3351417666674c3579634f2b62704f513d))) 0x00000606 = true := by decide +kernel

/-! ### Codecs -/

/-- V-COD-7 and V-COD-10. -/
theorem test_hexEnc : okIs (exec .hexEnc (withInput (hex 6 0x666f6f626172))) (hex 12 0x363636663666363236313732) = true := by
  decide
theorem test_hexEnc_fits_exactly : nextIs (exec .hexEnc (setup small [] 0 [] (rep 32 0x41)))
    (fun t => decide (t.outLen = 64) && decide (t.status = 0x00000002)) = true := by decide

/-- V-COD-16 and V-COD-14. -/
theorem test_hexDec_uppercase : okIs (exec .hexDec (withInput (hex 6 0x363636463646))) (hex 3 0x666f6f) = true := by
  decide
theorem test_hexDec_bad_digit : statusIs (exec .hexDec (withInput (hex 2 0x3067))) 0x00000406 = true := by decide

/-- V-COD-5 and V-COD-8. -/
theorem test_b64Enc : okIs (exec .b64Enc (withInput (hex 4 0x666f6f62))) (hex 8 0x5a6d397659673d3d) = true := by
  decide
theorem test_b64Enc_plus_slash : okIs (exec .b64Enc (withInput (hex 3 0xfbffbf))) (hex 4 0x2b2f2b2f) = true := by
  decide

/-- V-COD-23 and V-COD-18, for each setting of the parameter. -/
theorem test_b64Dec_crlf :
    (okIs (exec .b64Dec (withInput (hex 9 0x5a6d39760a59673d3d))) (hex 4 0x666f6f62)
      && statusIs (exec .b64Dec (setup (Params.mk 4096 8224 false false) [] 0 [] (hex 9 0x5a6d39760a59673d3d)))
        0x00000406) = true := by decide
theorem test_b64Dec_strict :
    (okIs (exec .b64Dec (withInput (hex 4 0x5a683d3d))) (hex 1 0x66)
      && statusIs (exec .b64Dec (setup (Params.mk 4096 8224 true true) [] 0 [] (hex 4 0x5a683d3d))) 0x00000406) = true := by
  decide

/-- V-COD-24 and V-COD-22: padding before the end, and too much of it. -/
theorem test_b64Decode_padding :
    [b64Decode Params.default (hex 8 0x5a673d3d5a673d3d), b64Decode Params.default (hex 4 0x5a3d3d3d)]
      = [.err .decodeError, .err .decodeError] := by decide

/-! ### Errors and their priority (spec/95_test_vectors.md section 2.8) -/

/-- V-ERR-2, V-ERR-3 and V-ERR-7. -/
theorem test_input_overflow_first : statusIs (exec .ctrEnc ((withInput []).setInLen 5000)) 0x00001106 = true := by
  decide
theorem test_key_length_before_empty : statusIs (exec .ctrEnc (setup Params.default [] 15 [] [])) 0x00000106 = true := by
  decide
theorem test_output_overflow : statusIs (exec .cfbEnc (setup small [] 0 [] (rep 17 0x41))) 0x00001206 = true := by
  decide

/-! ### The host port, accept and the agents -/

/-- A word put in flight runs as the first command after reset, with the draw on offer (CFB_ENC) too. -/
theorem test_first_command : nextIs (step (State.reset.withFetchWord 32 0x00000010))
    (fun t => decide (t.outLen = 32) && decide (t.status = 0x00000002)) = true := by decide

/-- V-DEC-9 run: an illegal word completes with ILLEGAL_COMMAND. -/
theorem test_illegal_word : statusIs (step (State.reset.withFetchWord 32 0x00000030)) 0x00001006 = true := by
  decide

/-- P1's first write: bytes 6d 79 6b 65 = "myke" at KEYBUF. -/
theorem test_little_endian_write :
    nextIs (step (State.reset.setSchedule [.hostWrite 0x0100 .word 0x656b796d]))
      (fun t => decide ((List.range 5).map (fun j => t.byteAt (0x0100 + j)) = [some 0x6d, some 0x79, some 0x6b, some 0x65, some 0])) = true := by
  decide

/-- P4, schedule A: the write to IN_LEN hits BUSY. -/
theorem test_write_while_busy :
    nextIs (step ((accept State.reset 0x00000110).setSchedule [.hostWrite 0x0014 .word 5]))
      (fun t => decide (t.status = 0x00000009) && decide (t.inLen = 0)) = true := by decide

/-- P4: STATUS 0x0000100e after W1C of 0xA reads 0x00001004. -/
theorem test_w1c :
    nextIs (step ((State.reset.setStatus 0x0000100e).setSchedule [.hostWrite 0x000C .word 0xA]))
      (fun t => decide (t.status = 0x00001004)) = true := by decide

/-- P4, schedules A and B, run whole: the final STATUS and the value read before the acknowledge. -/
theorem test_race_outcomes :
    (nextIs (Host.Core.run Sys2Proof.core 5 (State.reset.setSchedule [.hostWrite 0x0008 .word 0x00000110,
        .hostWrite 0x0014 .word 5, .controller, .hostRead 0x000C .word, .hostWrite 0x000C .word 0xA]))
        (fun t => decide (t.status = 0x00001004) && decide (t.hostReads = [0x0000100e]) && decide (t.inLen = 0))
      && nextIs (Host.Core.run Sys2Proof.core 5 (State.reset.setSchedule [.hostWrite 0x0008 .word 0x00000110, .controller,
        .hostWrite 0x0014 .word 5, .hostRead 0x000C .word, .hostWrite 0x000C .word 0xA]))
        (fun t => decide (t.status = 0x00001004) && decide (t.hostReads = [0x00001006]) && decide (t.inLen = 5))) = true := by
  decide

/-- P6: HEX_ENC of an UNWRITTEN byte faults. -/
theorem test_unwritten_input : faultIs (exec .hexEnc (State.reset.setInLen 4)) .unwrittenInput = true := by
  decide

/-- The bytes UNPAD_L trims are not read: the second byte may be UNWRITTEN. -/
theorem test_trimmed_byte_not_read :
    okIs (exec .unpadL ((State.reset.setInLen 3).setMem [(0x4000, 0x41), (0x4002, 0x02)])) [0x41] = true := by
  decide

/-- R61: a halfword access at an odd address, and a byte access to a register. -/
theorem test_not_admitted :
    (faultIs (step (State.reset.setSchedule [.hostWrite 0x4001 .half 0])) .notAdmitted
      && faultIs (step (State.reset.setSchedule [.hostRead 0x000C .byte])) .notAdmitted) = true := by decide

/-- R65, R23: an unmapped address reads 0, and ID its constant. -/
theorem test_reads :
    nextIs (Host.Core.run Sys2Proof.core 2 (State.reset.setSchedule [.hostRead 0x5000 .word, .hostRead 0x0000 .word]))
      (fun t => decide (t.hostReads = [0x41455301, 0])) = true := by decide

/-- R270: a reset while BUSY aborts the command; R102, R105: without a draw CFB_ENC waits. -/
theorem test_reset_aborts :
    nextIs (step ((accept State.reset 0x00000010).setSchedule [.reset]))
      (fun t => decide (t = State.reset)) = true := by decide
theorem test_waits_for_draw :
    nextIs (step (accept State.reset 0x00000010)) (fun t => decide (t = accept State.reset 0x00000010)) = true := by
  decide

/-! ### Witnesses: states and operands that meet the hypotheses of each statement -/

/-- HEX_ENC of "A" in flight, nothing scheduled. -/
def hexInFlight : State := accept (withInput [0x41]) 0x00000020

/-- CFB_ENC with cur_ivsel = 0 and a draw on offer. -/
def drawOnOffer : State :=
  ((withInput [0x41]).setCurIvsel false).setIvDraw (some (Vector.replicate 16 0x55))

/-- A cipher that meets R210's law. -/
def identityCipher : BlockCipher := { enc := fun _ b => b, dec := fun _ b => b }

theorem identityCipher_lawful : identityCipher.Lawful := fun _ _ _ h => ⟨h, h, rfl, rfl⟩

theorem witness_DecodeOfEncodeIsIdentity : (Instr.pad 255).wellFormed = true ∧ (Instr.pad 0).wellFormed = true := by decide

theorem witness_EncodeOfDecodeIsIdentity : decode 0x0000FF02 = .ok (.pad 255) ∧ decode 0x00010012 = .ok (.ecbEnc true) := by
  decide

theorem witness_DecodeIsTheOpcodeTable :
    (∃ r, r ∈ opcodeRows ∧ r.hasWord 0x0000FF02 = true) ∧ decode 0x0000FF02 = .ok (.pad 255)
      ∧ decode 0x00010013 = .ok (.ecbDec true) := by decide

theorem witness_StepRunsTheDecodedCommand :
    (hexInFlight.phase = .busy ∧ decode hexInFlight.cmd = .ok .hexEnc ∧ Instr.hexEnc.wellFormed = true
        ∧ hexInFlight.schedule = [])
      ∧ ((hexInFlight.setSchedule [.controller]).phase = .busy
        ∧ (hexInFlight.setSchedule [.controller]).schedule = [.controller]) := by decide

theorem witness_IllegalWordCompletesWithIllegalCommand :
    ((accept State.reset 0x80000001).setSchedule [.controller]).phase = .busy
      ∧ decode ((accept State.reset 0x80000001).setSchedule [.controller]).cmd = .error .reservedField
      ∧ (accept State.reset 0x00000000).phase = .busy ∧ decode (accept State.reset 0x00000000).cmd = .error .reservedOp
      ∧ (accept State.reset 0x00000000).schedule = [] := by decide

theorem witness_IdleControllerChangesNothing :
    State.reset.phase = .idle ∧ State.reset.schedule = [] ∧ (State.reset.setSchedule [.controller]).phase = .idle := by decide

/-- The illegal word 0x30 in flight: an invariant state that is not the reset state, and its next state. -/
theorem witness_StepKeepsTheInvariant :
    Inv (accept State.reset 0x00000030)
      ∧ step (accept State.reset 0x00000030) = .next (finishErr (accept State.reset 0x00000030) .illegalCommand) :=
  ⟨⟨by decide, by decide, by decide, by decide, by decide, by decide, fun _ => by decide, fun _ => by decide,
    fun h => absurd h (by decide), by decide, fun j hj => absurd hj (Nat.not_lt_zero j)⟩, rfl⟩

theorem witness_ResetSetsEveryRegister : (hexInFlight.setSchedule [.reset]).schedule = .reset :: [] := rfl

theorem witness_CmdWriteWhileIdleAccepts :
    (State.reset.setSchedule [.hostWrite 0x0008 .word 0xFFFFFFFF]).phase = .idle
      ∧ (State.reset.setSchedule [.hostWrite 0x0008 .word 0xFFFFFFFF]).schedule = [.hostWrite 0x0008 .word 0xFFFFFFFF] :=
  ⟨rfl, rfl⟩

/-- The first and last admitted bytes of each range of O12, with the default parameters. -/
theorem witness_WriteWhileBusyIsIgnoredAndNoted :
    hexInFlight.phase = .busy ∧ hexInFlight.cfg.legal = true
      ∧ admitted 0x0008 .word = true ∧ admitted 0x0010 .word = true ∧ admitted 0x0014 .word = true
      ∧ admitted 0x0100 .byte = true ∧ admitted 0x012F .byte = true
      ∧ admitted 0x4000 .word = true ∧ admitted 0x4FFF .byte = true ∧ hexInFlight.cfg.ibufSize = 0x1000 := by decide

theorem witness_StatusWriteClearsDoneAndBusyWr :
    (hexInFlight.setSchedule [.hostWrite 0x000C .word 0xA]).schedule = [.hostWrite 0x000C .word 0xA] := rfl

theorem witness_CtrlWriteTakesTwoBits :
    (hexInFlight.setSchedule [.hostWrite 0x0004 .word 0xFFFFFFFF]).schedule = [.hostWrite 0x0004 .word 0xFFFFFFFF] := rfl

theorem witness_LengthWritesStoreAnyValue :
    (State.reset.setSchedule [.hostWrite 0x0010 .word 0xFFFFFFFF]).phase = .idle
      ∧ (State.reset.setSchedule [.hostWrite 0x0014 .word 0xFFFFFFFF]).phase = .idle := ⟨rfl, rfl⟩

theorem witness_BufferWriteStoresLittleEndianBytes :
    (State.reset.setSchedule [.hostWrite 0x4FFC .word 0x64636261]).phase = .idle ∧ State.reset.cfg.legal = true
      ∧ admitted 0x4FFC .word = true ∧ admitted 0x012E .half = true ∧ admitted 0x0100 .byte = true
      ∧ State.reset.cfg.ibufSize = 0x1000 := by decide

theorem witness_WordWriteIsFourByteWrites :
    State.reset.schedule = [] ∧ State.reset.cfg.legal = true ∧ (0x4000#16).toNat % 4 = 0
      ∧ 0x0100 ≤ (0x4000#16).toNat ∧ (0x4000#16).toNat < 0x8000 := by decide

theorem witness_ReadOnlyAndUnmappedWritesAreIgnored :
    State.reset.cfg.legal = true ∧ admitted 0x0000 .word = true ∧ admitted 0x0020 .word = true
      ∧ admitted 0x0024 .word = true ∧ admitted 0x00FC .word = true ∧ admitted 0x0130 .byte = true
      ∧ admitted 0x3FFF .byte = true ∧ admitted 0x5000 .byte = true ∧ admitted 0xFFFF .byte = true := by decide

theorem witness_ReadHasNoSideEffect :
    (hexInFlight.setSchedule [.hostRead 0x8000 .half]).schedule = [.hostRead 0x8000 .half] ∧ admitted 0x8000 .half = true := by
  decide

theorem witness_RegisterReadsReturnTheRegisters :
    (hexInFlight.setSchedule [.hostRead 0x00FC .word]).schedule = [.hostRead 0x00FC .word] ∧ (0x00FC#16).toNat % 4 = 0
      ∧ (0x00FC#16).toNat < 0x0100 ∧ (0x0000#16).toNat % 4 = 0 ∧ (0x0024#16).toNat % 4 = 0 := by decide

/-- A stored KEYBUF byte while BUSY, an OBUF byte when IDLE, and an unmapped byte. -/
theorem witness_BufferReadsReturnStoredBytes :
    admitted 0x0100 .byte = true ∧ admitted 0x8000 .word = true ∧ admitted 0xFFFF .byte = true
      ∧ hexInFlight.cfg.legal = true ∧ hexInFlight.byteAt 0x0100 = some 0
      ∧ regionOf hexInFlight.cfg 0x0100 = .keybuf ∧ regionOf hexInFlight.cfg 0xFFFF = .unmapped
      ∧ (finishOk State.reset [0x41]).phase = .idle ∧ (finishOk State.reset [0x41]).byteAt 0x8000 = some 0x41
      ∧ regionOf State.reset.cfg 0x8000 = .obuf := by decide

theorem witness_WriteThenReadReturnsTheValue :
    (State.reset.setSchedule [.hostWrite 0x012C .word 7, .hostRead 0x012C .word]).phase = .idle
      ∧ State.reset.cfg.legal = true ∧ (0x012C#16).toNat % 4 = 0 ∧ (0x4FFC#16).toNat % 4 = 0
      ∧ State.reset.cfg.ibufSize = 0x1000 := by decide

theorem witness_OnlyAdmittedAccessesHaveAStep :
    (State.reset.setSchedule [.hostRead 0x0002 .half]).schedule = [.hostRead 0x0002 .half]
      ∧ (State.reset.setSchedule [.hostWrite 0x00FC .word 0]).schedule = [.hostWrite 0x00FC .word 0]
      ∧ (0x00FC#16).toNat % Width.word.bytes = 0 := by decide

theorem witness_IrqFollowsDoneAndEnable :
    hexInFlight.phase = .busy ∧ hexInFlight.schedule = [] ∧ step hexInFlight = .next (finish hexInFlight (.ok [0x34, 0x31]))
      ∧ (finish hexInFlight (.ok [0x34, 0x31])).phase = .idle ∧ (0x2#32).getLsbD 1 = true ∧ (0x2#32).getLsbD 0 = false :=
  ⟨rfl, rfl, rfl, rfl, rfl, rfl⟩

theorem witness_CompletionWritesOnlyItsResults :
    exec .hexEnc hexInFlight = .next (finish hexInFlight (.ok [0x34, 0x31])) := rfl

/-- Each of the three cases of O26: a wait, an Ok completion and an error completion. -/
theorem witness_CommandEndsInOneOfTwoWays :
    exec .cfbEnc State.reset = .next State.reset ∧ exec .hexEnc hexInFlight = .next (finish hexInFlight (.ok [0x34, 0x31]))
      ∧ exec .unpadS State.reset = .next (finishErr State.reset .invalidPadding) := ⟨rfl, rfl, rfl⟩

theorem witness_LongInputCompletesWithInputOverflow :
    (State.reset.setInLen 4097).cfg.ibufSize < (State.reset.setInLen 4097).inLen.toNat := by decide

theorem witness_LargeEnoughObufNeverOverflows :
    Instr.hexEnc.wellFormed = true ∧ hexInFlight.cfg.legal = true ∧ hexInFlight.phase = .busy
      ∧ hexInFlight.inLen.toNat ≤ hexInFlight.cfg.ibufSize ∧ 2 * hexInFlight.cfg.ibufSize + 32 ≤ hexInFlight.cfg.obufSize
      ∧ hexInFlight.cfg.ibufSize + 255 ≤ hexInFlight.cfg.obufSize := by decide

theorem witness_KeynormWritesTheNormalizedKey : State.reset.cfg.legal = true := by decide

/-- The input "A". -/
theorem input_A : InputIs (withInput [0x41]) [0x41] := ⟨by decide, by decide, by decide⟩

/-- The empty input. -/
theorem input_empty : InputIs (withInput []) [] := ⟨by decide, by decide, by decide⟩

theorem witness_PadAppendsThePadValue :
    (withInput [0x41]).inLen.toNat ≤ (withInput [0x41]).cfg.ibufSize ∧ InputIs (withInput [0x41]) [0x41]
      ∧ 1 ≤ 255 ∧ 255 ≤ 255 := ⟨by decide, input_A, by decide, by decide⟩

/-- Both clauses: P = "" ++ rep(16, 16), and P = 00, which has no pad of the form. -/
theorem witness_UnpadStrictVerifiesThePad :
    InputIs (withInput (rep 16 0x10)) (rep 16 0x10) ∧ rep 16 0x10 = [] ++ List.replicate 16 (BitVec.ofNat 8 16)
      ∧ InputIs (withInput []) []
      ∧ ∀ (q : Bytes) (n : Nat), 1 ≤ n → n ≤ 16 → ([] : Bytes) ≠ q ++ List.replicate n (BitVec.ofNat 8 n) :=
  ⟨⟨by decide, by decide, by decide⟩, rfl, input_empty, fun q n h1 _ h => by
    have := congrArg List.length h
    simp at this
    omega⟩

theorem witness_UnpadLenientTrims :
    InputIs (withInput []) [] ∧ InputIs (withInput [0x41]) [0x41] ∧ ([0x41] : Bytes) = [] ++ [0x41] :=
  ⟨input_empty, input_A, rfl⟩

/-- Every clause of R139: b at 1, 16, 17 and 255. -/
theorem witness_PaddingLaws :
    (1 ≤ 1 ∧ 255 ≤ 255) ∧ (16 < 17 ∧ 16 < 17 - ([] : Bytes).length % 17) ∧ unpadStrict [0x01] = .ok []
      ∧ 0x10 < (0x11#8).toNat := by decide

theorem witness_CfbChainsCiphertextBlocks :
    identityCipher.Lawful ∧ isKeyLength k128.length = true ∧ iv0.length = 16 ∧ 15 < 16 ∧ 16 * 1 + 15 < psp.length :=
  ⟨identityCipher_lawful, by decide, by decide, by decide, by decide⟩

/-- Both sources of the IV: a draw, and IVBUF. -/
theorem witness_CfbEncWritesTheEnvelope :
    InputIs drawOnOffer [0x41] ∧ IvIs drawOnOffer (Vector.replicate 16 (0x55 : Byte)).toList
      ∧ InputIs (withInput [0x41]) [0x41] ∧ IvIs (withInput [0x41]) (ivBuf (withInput [0x41])) :=
  ⟨⟨by decide, by decide, by decide⟩, .inr ⟨rfl, _, rfl, rfl⟩, input_A, .inl ⟨rfl, rfl⟩⟩

/-- The three cases of R153: no hex text, no IV, and exactly an IV. -/
theorem witness_CfbDecOpensTheEnvelope :
    (InputIs (withInput [0x41]) [0x41] ∧ hexDecode [0x41] = .err .decodeError)
      ∧ (InputIs (withInput []) [] ∧ hexDecode [] = .ok [])
      ∧ (InputIs (withInput (rep 32 0x30)) (rep 32 0x30) ∧ hexDecode (rep 32 0x30) = .ok (rep 16 0 ++ [])
        ∧ (rep 16 0).length = 16) :=
  ⟨⟨input_A, by decide⟩, ⟨input_empty, by decide⟩, ⟨⟨by decide, by decide, by decide⟩, by decide, by decide⟩⟩

theorem witness_CfbRoundTrip :
    (withInput [0x41]).cfg.legal = true ∧ InputIs (withInput [0x41]) [0x41]
      ∧ IvIs (withInput [0x41]) (ivBuf (withInput [0x41]))
      ∧ 2 * (16 + ([0x41] : Bytes).length) ≤ (withInput [0x41]).cfg.ibufSize
      ∧ 2 * (16 + ([0x41] : Bytes).length) ≤ (withInput [0x41]).cfg.obufSize :=
  ⟨by decide, input_A, .inl ⟨rfl, rfl⟩, by decide, by decide⟩

/-- A state whose input is a text of the length CFB_ENC writes for the empty input, with the same key. -/
theorem witness_CfbRoundTrip_second_state :
    InputIs (withInput (rep 32 0x30)) (rep 32 0x30) ∧ keyBuf (withInput (rep 32 0x30)) = keyBuf (withInput [])
      ∧ (withInput (rep 32 0x30)).keyLen = (withInput []).keyLen
      ∧ (withInput (rep 32 0x30)).cfg = (withInput []).cfg :=
  ⟨⟨by decide, by decide, by decide⟩, by decide, by decide, by decide⟩

theorem witness_EcbTransformsEachBlock :
    identityCipher.Lawful ∧ isKeyLength k128.length = true ∧ psp.length % 16 = 0 ∧ 16 * 1 < psp.length :=
  ⟨identityCipher_lawful, by decide, by decide, by decide⟩

theorem witness_EcbEncEncryptsThePaddedInput : InputIs (withInput [0x41]) [0x41] := input_A

/-- The failures of R173 and one text that decodes to a block. -/
theorem witness_EcbDecReportsOrCollapses :
    (InputIs (withInput [0x41]) [0x41] ∧ hexDecode [0x41] = .err .decodeError)
      ∧ (InputIs (withInput []) [] ∧ hexDecode [] = .ok [])
      ∧ (InputIs (withInput (rep 2 0x30)) (rep 2 0x30) ∧ hexDecode (rep 2 0x30) = .ok [0] ∧ ([0] : Bytes).length % 16 ≠ 0)
      ∧ (InputIs (withInput (rep 32 0x30)) (rep 32 0x30) ∧ hexDecode (rep 32 0x30) = .ok (rep 16 0) ∧ rep 16 0 ≠ []
        ∧ (rep 16 0).length % 16 = 0) :=
  ⟨⟨input_A, by decide⟩, ⟨input_empty, by decide⟩, ⟨⟨by decide, by decide, by decide⟩, by decide, by decide⟩,
    ⟨⟨by decide, by decide, by decide⟩, by decide, by decide, by decide⟩⟩

theorem witness_EcbRoundTrip :
    (withInput [0x41]).cfg.legal = true ∧ InputIs (withInput [0x41]) [0x41]
      ∧ 2 * (([0x41] : Bytes).length + 16) ≤ (withInput [0x41]).cfg.ibufSize
      ∧ 2 * (([0x41] : Bytes).length + 16) ≤ (withInput [0x41]).cfg.obufSize := ⟨by decide, input_A, by decide, by decide⟩

theorem witness_CtrCountsBigEndianBlocks :
    identityCipher.Lawful ∧ isKeyLength k128.length = true ∧ (rep 16 0xff).length = 16 ∧ 15 < 16 ∧ 16 * 1 + 15 < psp.length :=
  ⟨identityCipher_lawful, by decide, by decide, by decide, by decide⟩

/-- KEY_LEN = 17 with an UNWRITTEN input, and KEY_LEN = 16 with IN_LEN = 0. -/
theorem witness_CtrChecksKeyLengthThenEmptiness :
    (((State.reset.setInLen 4096).setKeyLen 17).inLen.toNat ≤ State.reset.cfg.ibufSize
        ∧ ¬(((State.reset.setInLen 4096).setKeyLen 17).keyLen = 16 ∨ ((State.reset.setInLen 4096).setKeyLen 17).keyLen = 24
          ∨ ((State.reset.setInLen 4096).setKeyLen 17).keyLen = 32))
      ∧ (State.reset.setKeyLen 16).keyLen = 16 ∧ (State.reset.setKeyLen 16).inLen = 0 := by decide

/-- The input "A" with a 16-byte key and a fixed IV. -/
def ctrReady : State := setup Params.default k128 16 ivf [0x41]

theorem ctrReady_input : InputIs ctrReady [0x41] := ⟨by decide, by decide, by decide⟩

theorem witness_CtrEncWritesTheEnvelope :
    InputIs ctrReady [0x41] ∧ IvIs ctrReady (ivBuf ctrReady)
      ∧ (ctrReady.keyLen = 16 ∨ ctrReady.keyLen = 24 ∨ ctrReady.keyLen = 32) ∧ ([0x41] : Bytes) ≠ [] :=
  ⟨ctrReady_input, .inl ⟨rfl, rfl⟩, by decide, by decide⟩

/-- The cases of R194 after its first two checks: malformed text, exactly an IV, an IV and one byte. -/
theorem witness_CtrDecOpensTheEnvelope :
    (InputIs ctrReady [0x41] ∧ ctrReady.keyLen = 16 ∧ b64Decode ctrReady.cfg [0x41] = .err .decodeError)
      ∧ (InputIs (setup Params.default k128 16 [] (b64Encode ivf)) (b64Encode ivf)
        ∧ b64Decode Params.default (b64Encode ivf) = .ok ivf ∧ ivf.length ≤ 16)
      ∧ (InputIs (setup Params.default k128 16 [] (b64Encode (ivf ++ [0x41]))) (b64Encode (ivf ++ [0x41]))
        ∧ b64Decode Params.default (b64Encode (ivf ++ [0x41])) = .ok (ivf ++ [0x41]) ∧ ivf.length = 16) :=
  ⟨⟨ctrReady_input, by decide, by decide⟩, ⟨⟨by decide, by decide, by decide⟩, by decide, by decide⟩,
    ⟨⟨by decide, by decide, by decide⟩, by decide, by decide⟩⟩

theorem witness_CtrRoundTrip :
    ctrReady.cfg.legal = true ∧ InputIs ctrReady [0x41] ∧ IvIs ctrReady (ivBuf ctrReady) ∧ ctrReady.keyLen = 16
      ∧ 4 * ((16 + 16 * (([0x41] : Bytes).length / 16 + 1) + 2) / 3) ≤ ctrReady.cfg.ibufSize
      ∧ 4 * ((16 + 16 * (([0x41] : Bytes).length / 16 + 1) + 2) / 3) ≤ ctrReady.cfg.obufSize :=
  ⟨by decide, ctrReady_input, .inl ⟨rfl, rfl⟩, by decide, by decide, by decide⟩

theorem witness_HexEncWritesTwoDigitsPerByte : InputIs (withInput [0x41]) [0x41] ∧ 0 < ([0x41] : Bytes).length :=
  ⟨input_A, by decide⟩

/-- An odd length with UNWRITTEN bytes, a bad digit, and a good text. -/
theorem witness_HexDecReadsTwoDigitsPerByte :
    ((State.reset.setInLen 3).inLen.toNat ≤ State.reset.cfg.ibufSize ∧ (State.reset.setInLen 3).inLen.toNat % 2 = 1)
      ∧ (InputIs (withInput [0x30, 0x67]) [0x30, 0x67] ∧ ∃ j, j < 2 ∧ hexVal (([0x30, 0x67] : Bytes).getD j 0) = none)
      ∧ (InputIs (withInput [0x66, 0x46]) [0x66, 0x46]
        ∧ ∀ j, j < 2 → hexVal (([0x66, 0x46] : Bytes).getD j 0) ≠ none) :=
  ⟨by decide, ⟨⟨by decide, by decide, by decide⟩, ⟨1, by decide, by decide⟩⟩,
    ⟨⟨by decide, by decide, by decide⟩, by decide⟩⟩

theorem witness_B64EncWritesFourDigitsPerThreeBytes : InputIs (withInput [0x41]) [0x41] ∧ 3 < 4 ∧ 3 * 0 < 1 :=
  ⟨input_A, by decide, by decide⟩

theorem witness_B64DecDecodesOrReports : InputIs (withInput [0x41]) [0x41] ∧ InputIs (withInput []) [] :=
  ⟨input_A, input_empty⟩

theorem witness_CodecLaws :
    (hexDecode [0x30, 0x61] = .ok [0x0a] ∧ ∀ c ∈ ([0x30, 0x61] : Bytes), c ∈ hexAlphabet)
      ∧ (0x30 ∈ hexEncode [0x0a])
      ∧ b64Decode (Params.mk 64 64 false true) [0x5a, 0x67, 0x3d, 0x3d] = .ok [0x66] := by decide

/-- R215's consequences at the boundaries of O52's clauses: "Zh==" is "f" leniently and an error strictly; with CR and LF
skipped "Zg\n==" is "f". -/
theorem witness_B64DecDecodesOrReports_clauses :
    b64Decode (Params.mk 64 64 false false) [0x5a, 0x68, 0x3d, 0x3d] = .ok [0x66]
      ∧ b64Decode (Params.mk 64 64 false true) [0x5a, 0x68, 0x3d, 0x3d] = .err .decodeError
      ∧ b64Decode (Params.mk 64 64 true true) [0x5a, 0x67, 0x0a, 0x3d, 0x3d] = .ok [0x66] := by decide

/-- Two states with the same operands that differ in STATUS, CTRL and a key byte beyond KEY_LEN. -/
theorem witness_OutcomeDependsOnlyOnTheOperands :
    SameOperands hexInFlight (((hexInFlight.setCtrl 3).setStatus 0).setMem (Memory.write hexInFlight.mem 0x011F 0x99))
      ∧ ((accept ctrReady 0x20).setCurIvsel true).curIvsel = true
      ∧ drawOnOffer.ivDraw ≠ none ∧ exec .hexEnc hexInFlight = .next (finish hexInFlight (.ok [0x34, 0x31])) :=
  ⟨⟨rfl, rfl, fun j h h' => absurd h' (by simp [hexInFlight, accept, withInput, setup, State.setKeyLen, State.setInLen,
      State.setMem, State.setCurIvsel, State.setCmd, State.setOutLen, State.setStatus, State.setPhase]),
    rfl, by decide, rfl, fun h => absurd h (by decide), fun _ => rfl⟩, rfl, by decide, rfl⟩

/-- UNPAD_L whose trimmed byte is UNWRITTEN, and the same state with that byte written. -/
theorem witness_NoResultRestsOnAnUnwrittenByte :
    exec .unpadL ((State.reset.setInLen 3).setMem [(0x4000, 0x41), (0x4002, 0x02)])
        = .next (finish ((State.reset.setInLen 3).setMem [(0x4000, 0x41), (0x4002, 0x02)]) (.ok [0x41]))
      ∧ ((State.reset.setInLen 3).setMem [(0x4000, 0x41), (0x4002, 0x02)]).byteAt 0x4001 = none
      ∧ ((State.reset.setInLen 3).setMem [(0x4000, 0x41), (0x4001, 0x77), (0x4002, 0x02)]).byteAt 0x4001 = some 0x77
      ∧ State.reset.cfg.legal = true := ⟨rfl, by decide, by decide, by decide⟩

theorem witness_UnwrittenInputByteFaults :
    3 < (State.reset.setInLen 4).inLen.toNat ∧ (State.reset.setInLen 4).inLen.toNat ≤ State.reset.cfg.ibufSize
      ∧ (State.reset.setInLen 4).byteAt (0x4000 + 3) = none
      ∧ IvIs ((State.reset.setInLen 4).setCurIvsel true) (ivBuf ((State.reset.setInLen 4).setCurIvsel true))
      ∧ (State.reset.setInLen 4).cfg.b64SkipCrlf = true ∧ ((State.reset.setInLen 4).setKeyLen 24).keyLen = 24 :=
  ⟨by decide, by decide, by decide, .inl ⟨rfl, rfl⟩, rfl, rfl⟩

theorem witness_CompletionWaitsForTheDraw :
    InputIs (drawOnOffer.setIvDraw none) [0x41] ∧ (drawOnOffer.setIvDraw none).curIvsel = false
      ∧ (drawOnOffer.setIvDraw none).ivDraw = none ∧ InputIs ((ctrReady.setCurIvsel false).setIvDraw none) [0x41]
      ∧ ((ctrReady.setCurIvsel false).setIvDraw none).keyLen = 16
      ∧ (hexInFlight.setSchedule [.offer (Vector.replicate 16 0x55)]).schedule = [.offer (Vector.replicate 16 0x55)]
      ∧ (State.reset.setSchedule [.offer (Vector.replicate 16 0x55)]).phase = .idle :=
  ⟨⟨by decide, by decide, by decide⟩, rfl, rfl, ⟨by decide, by decide, by decide⟩, by decide, rfl, rfl⟩

/-- A host write, and a wait of CFB_ENC with the controller's turn scheduled and with nothing scheduled. -/
theorem witness_InputsStayFixedInFlight :
    (hexInFlight.setSchedule [.hostWrite 0x4000 .byte 7]).phase = .busy
      ∧ (Event.hostWrite 0x4000 .byte 7) ≠ .controller ∧ (Event.hostWrite 0x4000 .byte 7) ≠ .reset
      ∧ step (hexInFlight.setSchedule [.hostWrite 0x4000 .byte 7]) = .next (noteBusyWrite hexInFlight)
      ∧ step ((accept State.reset 0x00000010).setSchedule [.controller]) = .next (accept State.reset 0x00000010)
      ∧ step (accept State.reset 0x00000010) = .next (accept State.reset 0x00000010)
      ∧ (accept State.reset 0x00000010).phase = .busy ∧ (accept State.reset 0x00000010).schedule = [] :=
  ⟨rfl, by decide, by decide, rfl, rfl, rfl, rfl, rfl⟩

theorem witness_ShimCollapsesOnlyEcbErrors :
    collapse false (.err .inputOverflow) ≠ .ok [] ∧ collapse false (.err .notBlockMultiple) = .ok [] := by decide

/-- A key of each length of R210 and a block. -/
theorem witness_AesDecryptionInvertsEncryption :
    isKeyLength (List.replicate 16 (0 : Byte)).length = true ∧ isKeyLength (List.replicate 24 (0 : Byte)).length = true
      ∧ isKeyLength (List.replicate 32 (0 : Byte)).length = true ∧ (List.replicate 16 (0 : Byte)).length = 16 := by decide

theorem witness_AdmittedAndWrittenStepsAreSafe :
    nextAccessAdmitted hexInFlight = true ∧ inputWritten hexInFlight = true
      ∧ nextAccessAdmitted (State.reset.setInLen 4097) = true
      ∧ (State.reset.setInLen 4097).cfg.ibufSize < (State.reset.setInLen 4097).inLen.toNat := by decide

/-- HEX_ENC with cur_ivsel = 1; and from reset, with cur_ivsel = 0 and no draw: HEX_ENC, KEYNORM with an unwritten input, an
illegal word, a CTR_ENC with no key, and a CFB_ENC whose input is too long. -/
theorem witness_AcceptedCommandCompletes :
    (hexInFlight.setSchedule [.hostRead 0x000C .word]).phase = .busy
      ∧ inputWritten (hexInFlight.setSchedule [.hostRead 0x000C .word]) = true
      ∧ ((hexInFlight.setCurIvsel true).setSchedule [.hostRead 0x000C .word]).curIvsel = true
      ∧ admitted 0x000C .word = true
      ∧ ([.hostRead 0x000C .word] : List Event) = [((0x000C : Addr), Width.word)].map (fun r => Event.hostRead r.1 r.2)
      ∧ (accept State.reset 0x00000020).curIvsel = false ∧ (accept State.reset 0x00000020).ivDraw = none
      ∧ decode (accept State.reset 0x00000020).cmd = .ok .hexEnc ∧ inputWritten (accept State.reset 0x00000020) = true
      ∧ decode (accept (State.reset.setInLen 4) 0x00000001).cmd = .ok .keynorm
      ∧ inputWritten (accept (State.reset.setInLen 4) 0x00000001) = false
      ∧ decode (accept State.reset 0x00000000).cmd = .error .reservedOp
      ∧ decode (accept State.reset 0x00000014).cmd = .ok .ctrEnc ∧ (accept State.reset 0x00000014).keyLen = 0
      ∧ (State.reset.setInLen 4097).cfg.ibufSize < (accept (State.reset.setInLen 4097) 0x00000010).inLen.toNat := by
  decide

end Sys2Proof.Machine.Tests
end

section
/-! PROOFS. The host port while BUSY (spec/20_memory.md R67, spec/40_dispatch.md R101): a write that must not reach its
target leaves only the note in STATUS.BUSY_WR, and each further byte lane of the same write leaves that note as it is. -/

namespace Sys2Proof.Machine

/-! ### An admitted write, by its range -/

/-- An admitted write above the register range is the write of its byte lanes. -/
theorem hostWrite_lanes {s : State} {addr : Addr} {n : Width} (v : Word) (hadm : admitted addr n = true)
    (ha : 0x00FF < addr.toNat) : hostWrite s addr n v = .next (writeLanes s addr.toNat (dataBytes n v)) := by
  simp [hostWrite, hadm, Nat.not_le.mpr ha]

/-- An admitted write to the register range. -/
theorem hostWrite_register {s : State} {addr : Addr} {n : Width} (v : Word) (hadm : admitted addr n = true)
    (ha : addr.toNat ≤ 0x00FF) : hostWrite s addr n v = .next (writeRegister s addr.toNat v) := by
  simp [hostWrite, hadm, ha]

/-! ### The note of an ignored write -/

theorem putBit_true_idem (w : Word) (i : Nat) : putBit (putBit w i true) i true = putBit w i true := by
  simp [putBit, BitVec.or_assoc]

/-- A second ignored write leaves what the first one left. -/
@[simp] theorem noteBusyWrite_idem (s : State) : noteBusyWrite (noteBusyWrite s) = noteBusyWrite s :=
  congrArg s.setStatus (putBit_true_idem s.status 3)

theorem unlessBusy_of_busy {s : State} (h : s.phase = .busy) (t : State) : unlessBusy s t = noteBusyWrite s := if_pos h

/-! ### The buffers a host write is stored in -/

/-- An address of KEYBUF, IVBUF or IBUF: a write there is stored while IDLE and noted while BUSY (R64, R67). -/
def isInputBufferAddress (p : Params) (a : Nat) : Prop :=
  regionOf p a = .keybuf ∨ regionOf p a = .ivbuf ∨ regionOf p a = .ibuf

/-- R60's ranges of KEYBUF with IVBUF, and of IBUF. -/
theorem isInputBufferAddress_of_range {p : Params} {a : Nat}
    (h : (0x0100 ≤ a ∧ a < 0x0130) ∨ (0x4000 ≤ a ∧ a < 0x4000 + p.ibufSize)) : isInputBufferAddress p a := by
  unfold isInputBufferAddress regionOf keybufBase keybufSize ivbufBase ivbufSize ibufBase
  rcases h with ⟨hlo, hhi⟩ | ⟨hlo, hhi⟩
  · rw [if_neg (by omega)]
    rcases Nat.lt_or_ge a 0x0120 with hk | hi
    · rw [if_pos (by omega)]; exact .inl rfl
    · rw [if_neg (by omega), if_pos (by omega)]; exact .inr (.inl rfl)
  · rw [if_neg (by omega), if_neg (by omega), if_neg (by omega), if_pos ⟨hlo, hhi⟩]
    exact .inr (.inr rfl)

theorem writeLane_of_inputBuffer {s : State} {a : Nat} (h : isInputBufferAddress s.cfg a) (b : Byte) :
    writeLane s a b = unlessBusy s (s.setMem (Memory.write s.mem a b)) := by
  rcases h with h | h | h <;> simp only [writeLane, h]

/-! ### Writes while BUSY -/

/-- Wherever it falls, a byte lane written while BUSY leaves an already noted state as it is. -/
theorem writeLane_noted {s : State} (h : s.phase = .busy) (a : Nat) (b : Byte) :
    writeLane (noteBusyWrite s) a b = noteBusyWrite s := by
  rcases writeLane_cases (noteBusyWrite s) a b with ⟨hidle, -, -, -⟩ | ⟨-, hnote⟩ | hsame
  · rw [noteBusyWrite_phase, h] at hidle; cases hidle
  · rw [hnote, noteBusyWrite_idem]
  · exact hsame

theorem writeLanes_noted {s : State} (h : s.phase = .busy) (a : Nat) (bs : Bytes) :
    writeLanes (noteBusyWrite s) a bs = noteBusyWrite s := by
  induction bs generalizing a with
  | nil => rfl
  | cons b bs ih => rw [writeLanes, writeLane_noted h, ih]

/-- A write of one or more lanes that begins in an input buffer is noted once, whatever its further lanes meet. -/
theorem writeLanes_inputBuffer_of_busy {s : State} (h : s.phase = .busy) {a : Nat}
    (ha : isInputBufferAddress s.cfg a) {bs : Bytes} (hbs : bs ≠ []) : writeLanes s a bs = noteBusyWrite s := by
  cases bs with
  | nil => exact absurd rfl hbs
  | cons b bs => rw [writeLanes, writeLane_of_inputBuffer ha, unlessBusy_of_busy h, writeLanes_noted h]

theorem dataBytes_ne_nil (n : Width) (v : Word) : dataBytes n v ≠ [] := by
  rw [← List.length_pos_iff, dataBytes_length]
  cases n <;> decide

/-- R101: CMD, KEY_LEN and IN_LEN while BUSY. -/
theorem writeRegister_operand_of_busy {s : State} (h : s.phase = .busy) {offset : Nat}
    (ho : offset = 0x0008 ∨ offset = 0x0010 ∨ offset = 0x0014) (v : Word) :
    writeRegister s offset v = noteBusyWrite s := by
  rcases ho with rfl | rfl | rfl <;> exact unlessBusy_of_busy h _

/-- R67 and R101 for every target: the whole next state of a write that BUSY turns away. -/
theorem hostWrite_of_busy {s : State} {addr : Addr} {n : Width} (v : Word) (h : s.phase = .busy)
    (hadm : admitted addr n = true)
    (ha : addr = 0x0008 ∨ addr = 0x0010 ∨ addr = 0x0014 ∨ (0x0100 ≤ addr.toNat ∧ addr.toNat < 0x0130)
      ∨ (0x4000 ≤ addr.toNat ∧ addr.toNat < 0x4000 + s.cfg.ibufSize)) :
    hostWrite s addr n v = .next (noteBusyWrite s) := by
  have hsplit : (addr.toNat = 0x0008 ∨ addr.toNat = 0x0010 ∨ addr.toNat = 0x0014)
      ∨ ((0x0100 ≤ addr.toNat ∧ addr.toNat < 0x0130)
        ∨ (0x4000 ≤ addr.toNat ∧ addr.toNat < 0x4000 + s.cfg.ibufSize)) := by
    rcases ha with rfl | rfl | rfl | hbuf
    · exact .inl (.inl rfl)
    · exact .inl (.inr (.inl rfl))
    · exact .inl (.inr (.inr rfl))
    · exact .inr hbuf
  rcases hsplit with hreg | hbuf
  · rw [hostWrite_register v hadm (by omega), writeRegister_operand_of_busy h hreg]
  · rw [hostWrite_lanes v hadm (by omega),
      writeLanes_inputBuffer_of_busy h (isInputBufferAddress_of_range hbuf) (dataBytes_ne_nil n v)]

/-- Settles O12: the step's whole next state is the note of `hostWrite_of_busy`, and BUSY_WR is the only bit of STATUS that
the note sets. -/
theorem writeWhileBusyIsIgnoredAndNoted : Obligations.WriteWhileBusyIsIgnoredAndNoted := by
  intro s addr n v rest hbusy _ hsched hadm haddr
  have hstep : step s = .next (noteBusyWrite (s.setSchedule rest)) := by
    rw [step_cons hsched]
    exact hostWrite_of_busy v hbusy hadm haddr
  exact ⟨_, hstep, statusBusyWr_putBusyWr s.status true, statusBusy_putBusyWr s.status true,
    statusDone_putBusyWr s.status true, statusErr_putBusyWr s.status true, statusErrCode_putBusyWr s.status true,
    reserved_putBusyWr s.status true, rfl⟩

end Sys2Proof.Machine
end

section
/-! PROOFS. The decoder is R82's table (spec/30_encoding.md R83): the mask of a row keeps OP and the fields its command does
not take, so a row's match is the condition under which `decode` answers with that row's command. -/

namespace Sys2Proof.Laws

/-! ### A word is its four fields (R80) -/

/-- Two words agree in a field when they agree in each of its bits. -/
theorem extractLsb'_eq_iff {w v : Word} {start len : Nat} :
    w.extractLsb' start len = v.extractLsb' start len
      ↔ ∀ j, start ≤ j → j < start + len → w.getLsbD j = v.getLsbD j := by
  refine ⟨fun h j hlo hhi => ?_, fun h => BitVec.eq_of_getLsbD_eq fun k hk => ?_⟩
  · have hbit := congrArg (BitVec.getLsbD · (j - start)) h
    simpa [BitVec.getLsbD_extractLsb', show j - start < len by omega, Nat.add_sub_cancel' hlo] using hbit
  · simp [hk, h (start + k) (by omega) (by omega)]

/-- Bits [31:16] are TYPED and RSVD. -/
theorem bitsAboveBlksz_eq_iff {w v : Word} :
    bitsAboveBlksz w = bitsAboveBlksz v ↔ fieldTyped w = fieldTyped v ∧ fieldRsvd w = fieldRsvd v := by
  unfold bitsAboveBlksz fieldTyped fieldRsvd
  rw [extractLsb'_eq_iff, extractLsb'_eq_iff]
  refine ⟨fun h => ⟨h 16 (by omega) (by omega), fun j hlo hhi => h j (by omega) (by omega)⟩,
    fun ⟨htyped, hrsvd⟩ j hlo hhi => ?_⟩
  rcases Nat.eq_or_lt_of_le hlo with rfl | hlt
  · exact htyped
  · exact hrsvd j hlt hhi

/-- Bits [31:8] are BLKSZ and bits [31:16]. -/
theorem bitsAboveOp_eq_iff {w v : Word} :
    bitsAboveOp w = bitsAboveOp v ↔ fieldBlksz w = fieldBlksz v ∧ bitsAboveBlksz w = bitsAboveBlksz v := by
  unfold bitsAboveOp fieldBlksz bitsAboveBlksz
  simp only [extractLsb'_eq_iff]
  refine ⟨fun h => ⟨fun j hlo hhi => h j hlo (by omega), fun j hlo hhi => h j (by omega) hhi⟩,
    fun ⟨hblksz, habove⟩ j hlo hhi => ?_⟩
  rcases Nat.lt_or_ge j 16 with hlt | hge
  · exact hblksz j hlo hlt
  · exact habove j hge hhi

/-- A word is OP and bits [31:8]. -/
theorem word_eq_iff {w v : Word} : w = v ↔ fieldOp w = fieldOp v ∧ bitsAboveOp w = bitsAboveOp v := by
  unfold fieldOp bitsAboveOp
  simp only [extractLsb'_eq_iff]
  refine ⟨fun h => h ▸ ⟨fun _ _ _ => rfl, fun _ _ _ => rfl⟩, fun ⟨hop, habove⟩ => BitVec.eq_of_getLsbD_eq fun j hj => ?_⟩
  rcases Nat.lt_or_ge j 8 with hlt | hge
  · exact hop j (Nat.zero_le j) hlt
  · exact habove j hge hj

theorem bitsAboveBlksz_eq_zero_iff {w : Word} :
    bitsAboveBlksz w = 0 ↔ fieldTyped w = false ∧ fieldRsvd w = 0 :=
  bitsAboveBlksz_eq_iff (v := 0)

theorem bitsAboveOp_eq_zero_iff {w : Word} :
    bitsAboveOp w = 0 ↔ fieldBlksz w = 0 ∧ fieldTyped w = false ∧ fieldRsvd w = 0 :=
  (bitsAboveOp_eq_iff (v := 0)).trans (and_congr_right' bitsAboveBlksz_eq_zero_iff)

theorem word_eq_iff_fields {w v : Word} :
    w = v ↔ fieldOp w = fieldOp v ∧ fieldBlksz w = fieldBlksz v ∧ fieldTyped w = fieldTyped v
      ∧ fieldRsvd w = fieldRsvd v := by
  rw [word_eq_iff, bitsAboveOp_eq_iff, bitsAboveBlksz_eq_iff]

theorem fieldOp_and (w m : Word) : fieldOp (w &&& m) = fieldOp w &&& fieldOp m := BitVec.extractLsb'_and

theorem fieldBlksz_and (w m : Word) : fieldBlksz (w &&& m) = fieldBlksz w &&& fieldBlksz m := BitVec.extractLsb'_and

theorem fieldTyped_and (w m : Word) : fieldTyped (w &&& m) = (fieldTyped w && fieldTyped m) := BitVec.getLsbD_and

theorem fieldRsvd_and (w m : Word) : fieldRsvd (w &&& m) = fieldRsvd w &&& fieldRsvd m := BitVec.extractLsb'_and

/-- A masked word is an OP alone when, field by field, its masked bits are. -/
theorem and_eq_op_iff {w m : Word} {op : BitVec 8} :
    w &&& m = encodeFields false 0 op ↔ fieldOp w &&& fieldOp m = op ∧ fieldBlksz w &&& fieldBlksz m = 0
      ∧ (fieldTyped w && fieldTyped m) = false ∧ fieldRsvd w &&& fieldRsvd m = 0 := by
  obtain ⟨hop, hrsvd, hblksz, htyped⟩ := encodeFields_fields false 0 op
  rw [word_eq_iff_fields, hop, hrsvd, hblksz, htyped, fieldOp_and, fieldBlksz_and, fieldTyped_and, fieldRsvd_and]

/-! ### The three masks of R82 -/

/-- The mask of a command that takes no field. -/
theorem and_fullMask_eq_op_iff {w : Word} {op : BitVec 8} :
    w &&& 0xFFFFFFFF = encodeFields false 0 op ↔ fieldOp w = op ∧ bitsAboveOp w = 0 := by
  rw [and_eq_op_iff, show fieldOp 0xFFFFFFFF = BitVec.allOnes 8 by decide,
    show fieldBlksz 0xFFFFFFFF = BitVec.allOnes 8 by decide, show fieldTyped 0xFFFFFFFF = true by decide,
    show fieldRsvd 0xFFFFFFFF = BitVec.allOnes 15 by decide, bitsAboveOp_eq_zero_iff]
  simp only [BitVec.and_allOnes, Bool.and_true]

/-- The mask of PAD leaves BLKSZ out. -/
theorem and_padMask_eq_op_iff {w : Word} {op : BitVec 8} :
    w &&& 0xFFFF00FF = encodeFields false 0 op ↔ fieldOp w = op ∧ bitsAboveBlksz w = 0 := by
  rw [and_eq_op_iff, show fieldOp 0xFFFF00FF = BitVec.allOnes 8 by decide,
    show fieldBlksz 0xFFFF00FF = 0#8 by decide, show fieldTyped 0xFFFF00FF = true by decide,
    show fieldRsvd 0xFFFF00FF = BitVec.allOnes 15 by decide, bitsAboveBlksz_eq_zero_iff]
  simp only [BitVec.and_allOnes, BitVec.and_zero, Bool.and_true, BitVec.ofNat_eq_ofNat, true_and]

/-- The mask of the ECB commands leaves TYPED out. -/
theorem and_ecbMask_eq_op_iff {w : Word} {op : BitVec 8} :
    w &&& 0xFFFEFFFF = encodeFields false 0 op ↔ fieldOp w = op ∧ fieldRsvd w = 0 ∧ fieldBlksz w = 0 := by
  rw [and_eq_op_iff, show fieldOp 0xFFFEFFFF = BitVec.allOnes 8 by decide,
    show fieldBlksz 0xFFFEFFFF = BitVec.allOnes 8 by decide, show fieldTyped 0xFFFEFFFF = false by decide,
    show fieldRsvd 0xFFFEFFFF = BitVec.allOnes 15 by decide]
  simp only [BitVec.and_allOnes, Bool.and_false, true_and, and_comm]

/-! ### The row of a command -/

/-- The mask column of R82: zero exactly in the field the command takes. -/
def rowMask : Instr → Word
  | .pad _ => 0xFFFF00FF
  | .ecbEnc _ | .ecbDec _ => 0xFFFEFFFF
  | .keynorm | .unpadS | .unpadL | .cfbEnc | .cfbDec | .ctrEnc | .ctrDec | .hexEnc | .hexDec | .b64Enc | .b64Dec =>
    0xFFFFFFFF

/-- The row of R82 a command stands in: its match is the command's OP with every other field zero. -/
def rowOf (i : Instr) : OpcodeRow := ⟨i.mnemonic, encodeFields false 0 i.op, rowMask i⟩

/-- The condition of R83's decode function, after OP: the bits outside OP and the command's own field are zero. -/
def otherBitsZero (w : Word) : Instr → Bool
  | .pad _ => decide (bitsAboveBlksz w = 0)
  | .ecbEnc _ | .ecbDec _ => decide (fieldRsvd w = 0 ∧ fieldBlksz w = 0)
  | .keynorm | .unpadS | .unpadL | .cfbEnc | .cfbDec | .ctrEnc | .ctrDec | .hexEnc | .hexDec | .b64Enc | .b64Dec =>
    decide (bitsAboveOp w = 0)

/-- A row's match is its OP and R83's condition on the other bits. -/
theorem hasWord_rowOf_iff {w : Word} {i : Instr} :
    (rowOf i).hasWord w = true ↔ fieldOp w = i.op ∧ otherBitsZero w i = true := by
  unfold OpcodeRow.hasWord otherBitsZero rowOf rowMask
  cases i <;>
    simp only [decide_eq_true_iff, and_fullMask_eq_op_iff, and_padMask_eq_op_iff, and_ecbMask_eq_op_iff]

/-- The fourteen commands in the order of R82, with their fields read from `w` (R81). -/
def commandsWithFieldsOf (w : Word) : List Instr :=
  [.keynorm, .pad (fieldBlksz w).toNat, .unpadS, .unpadL, .cfbEnc, .cfbDec, .ecbEnc (fieldTyped w), .ecbDec (fieldTyped w),
   .ctrEnc, .ctrDec, .hexEnc, .hexDec, .b64Enc, .b64Dec]

theorem pad_mem_commands {w : Word} {b : Nat} : .pad b ∈ commandsWithFieldsOf w ↔ b = (fieldBlksz w).toNat := by
  simp [commandsWithFieldsOf]

theorem ecbEnc_mem_commands {w : Word} {t : Bool} : .ecbEnc t ∈ commandsWithFieldsOf w ↔ t = fieldTyped w := by
  simp [commandsWithFieldsOf]

theorem ecbDec_mem_commands {w : Word} {t : Bool} : .ecbDec t ∈ commandsWithFieldsOf w ↔ t = fieldTyped w := by
  simp [commandsWithFieldsOf]

/-- The rows of the commands are R82's table. -/
theorem map_rowOf_commands (w : Word) : (commandsWithFieldsOf w).map rowOf = opcodeRows := by
  simp [commandsWithFieldsOf, rowOf, opcodeRows, Instr.mnemonic, Instr.op, rowMask, encodeFields]

/-- Whatever `w`, a row of the table is the row of one of its commands. -/
theorem mem_opcodeRows_iff (w : Word) {r : OpcodeRow} :
    r ∈ opcodeRows ↔ ∃ i ∈ commandsWithFieldsOf w, rowOf i = r := by
  rw [← map_rowOf_commands w, List.mem_map]

/-! ### The decoder, by OP -/

/-- R83 and R84(b): a word with a command's OP. -/
theorem decode_of_op {w : Word} {i : Instr} (hi : i ∈ commandsWithFieldsOf w) (hop : fieldOp w = i.op) :
    decode w = if otherBitsZero w i then .ok i else .error .reservedField := by
  simp only [commandsWithFieldsOf, List.mem_cons, List.not_mem_nil, or_false] at hi
  rcases hi with rfl | rfl | rfl | rfl | rfl | rfl | rfl | rfl | rfl | rfl | rfl | rfl | rfl | rfl <;>
    simp [decode, hop, Instr.op, decodePlain, decodeTyped, otherBitsZero]

/-- R84(a): a word with no command's OP. -/
theorem decode_of_reservedOp {w : Word} (hop : ∀ i ∈ commandsWithFieldsOf w, fieldOp w ≠ i.op) :
    decode w = .error .reservedOp := by
  simp only [commandsWithFieldsOf, List.forall_mem_cons, ne_eq, Instr.op, BitVec.ofNat_eq_ofNat] at hop
  simp [decode, hop]

/-- Decoding reads the one command whose row has the word. -/
theorem decode_eq_ok_iff {w : Word} {i : Instr} :
    decode w = .ok i ↔ i ∈ commandsWithFieldsOf w ∧ (rowOf i).hasWord w = true := by
  rw [hasWord_rowOf_iff]
  refine ⟨fun h => ?_, fun ⟨hmem, hop, hzero⟩ => by rw [decode_of_op hmem hop, if_pos hzero]⟩
  by_cases hop : ∃ j ∈ commandsWithFieldsOf w, fieldOp w = j.op
  · obtain ⟨j, hmem, hop⟩ := hop
    rw [decode_of_op hmem hop] at h
    split at h
    · next hzero => cases h; exact ⟨hmem, hop, hzero⟩
    · cases h
  · rw [decode_of_reservedOp fun j hj heq => hop ⟨j, hj, heq⟩] at h
    cases h

/-! ### R82's table -/

/-- Every mask keeps bits [7:0] (R83). -/
theorem fieldOp_of_hasWord {w : Word} {r : OpcodeRow} (hr : r ∈ opcodeRows) (h : r.hasWord w = true) :
    fieldOp w = fieldOp r.value := by
  obtain ⟨i, -, rfl⟩ := (mem_opcodeRows_iff w).mp hr
  rw [(hasWord_rowOf_iff.mp h).1]
  exact (encodeFields_fields false 0 i.op).1.symm

/-- The rows' OP values differ (R83). -/
theorem row_eq_of_fieldOp_eq : ∀ r ∈ opcodeRows, ∀ r' ∈ opcodeRows, fieldOp r.value = fieldOp r'.value → r = r' := by
  decide

/-- Settles O4: a row that has the word is the row of the command that `decode_eq_ok_iff` reads from it, and two such rows
would have one OP. -/
theorem decodeIsTheOpcodeTable : Obligations.DecodeIsTheOpcodeTable := by
  refine ⟨fun w r r' hr hr' h h' => ?_, fun w r hr h => ?_, fun w i h => ?_⟩
  · exact row_eq_of_fieldOp_eq r hr r' hr' ((fieldOp_of_hasWord hr h).symm.trans (fieldOp_of_hasWord hr' h'))
  · obtain ⟨i, hi, rfl⟩ := (mem_opcodeRows_iff w).mp hr
    exact ⟨i, decode_eq_ok_iff.mpr ⟨hi, h⟩, rfl⟩
  · obtain ⟨hi, hword⟩ := decode_eq_ok_iff.mp h
    refine ⟨⟨rowOf i, (mem_opcodeRows_iff w).mpr ⟨i, hi, rfl⟩, hword, rfl⟩, ?_, ?_⟩
    · rintro b rfl
      exact pad_mem_commands.mp hi
    · rintro t (rfl | rfl)
      · exact ecbEnc_mem_commands.mp hi
      · exact ecbDec_mem_commands.mp hi

end Sys2Proof.Laws
end


section
/-! PROOFS. A command's outcome rests on its operands alone (spec/40_dispatch.md R110): each operand view is the same from
two states with the same operands, so each frame around a command's function, and with it `exec`, gives the same answer. -/

namespace Sys2Proof.Machine

/-! ### The operand views -/

section
variable {s u : State} (h : SameOperands s u)
include h

theorem SameOperands.keyLength_eq : keyLength u = keyLength s := congrArg BitVec.toNat h.keyLen

theorem SameOperands.inLength_eq : inLength u = inLength s := congrArg BitVec.toNat h.inLen

theorem SameOperands.inputTooLong_eq : inputTooLong u = inputTooLong s := by
  simp only [inputTooLong, h.cfg, h.inLength_eq]

/-- KB[0..KL), all that a command may use of KEYBUF (R32). -/
theorem SameOperands.keyBuf_take : (keyBuf u).take (keyLength s) = (keyBuf s).take (keyLength s) := by
  simp only [keyBuf, bufferBytes, ← List.map_take, List.take_range]
  refine List.map_congr_left fun j hj => ?_
  obtain ⟨hlen, hsize⟩ := Nat.lt_min.mp (List.mem_range.mp hj)
  rw [h.key j hsize hlen]

theorem SameOperands.inputCells_eq : inputCells u = inputCells s := by
  rw [inputCells, h.inLength_eq]
  exact List.map_congr_left fun j hj => h.input j (List.mem_range.mp hj)

theorem SameOperands.filledInput_eq : filledInput u = filledInput s := by
  rw [filledInput, h.inputCells_eq, ← filledInput]

theorem SameOperands.readInput_eq (reads : Bytes → Nat → Bool) : readInput u reads = readInput s reads := by
  have hread : (List.range (inLength s)).all (fun j => !reads (filledInput s) j || (u.byteAt (ibufBase + j)).isSome)
      = (List.range (inLength s)).all (fun j => !reads (filledInput s) j || (s.byteAt (ibufBase + j)).isSome) := by
    rw [Bool.eq_iff_iff, List.all_eq_true, List.all_eq_true]
    exact forall₂_congr fun j hj => by rw [h.input j (List.mem_range.mp hj)]
  rw [readInput, h.inLength_eq, h.filledInput_eq, hread, ← readInput]

/-- Taking the draw leaves the other operands. -/
theorem SameOperands.takeDraw : SameOperands (s.setIvDraw none) (u.setIvDraw none) :=
  { h with draw := fun _ => rfl }

end

/-! ### The two keys (R130, R190) -/

theorem normalize_take (kb : Bytes) (kl : Nat) : normalize (kb.take kl) kl = normalize kb kl := by
  refine List.map_congr_left fun i _ => ?_
  by_cases hi : i < kl <;> simp [hi]

theorem ctrKey_take (kb : Bytes) (kl : Nat) : ctrKey (kb.take kl) kl = ctrKey kb kl := by
  rw [ctrKey, List.take_take, Nat.min_self, ← ctrKey]

section
variable {s u : State} (h : SameOperands s u)
include h

theorem SameOperands.normalize_eq :
    normalize (keyBuf u) (keyLength u) = normalize (keyBuf s) (keyLength s) := by
  rw [h.keyLength_eq, ← normalize_take, h.keyBuf_take, normalize_take]

theorem SameOperands.ctrKey_eq : ctrKey (keyBuf u) (keyLength u) = ctrKey (keyBuf s) (keyLength s) := by
  rw [h.keyLength_eq, ← ctrKey_take, h.keyBuf_take, ctrKey_take]

/-! ### The functions that take a key -/

theorem SameOperands.opKeynorm_eq :
    opKeynorm (keyBuf u) (keyLength u) = opKeynorm (keyBuf s) (keyLength s) :=
  congrArg Result.ok h.normalize_eq

theorem SameOperands.opCfbEnc_eq (c : BlockCipher) (p iv : Bytes) :
    opCfbEnc c (keyBuf u) (keyLength u) p iv = opCfbEnc c (keyBuf s) (keyLength s) p iv := by
  rw [opCfbEnc, h.normalize_eq, ← opCfbEnc]

theorem SameOperands.opCfbDec_eq (c : BlockCipher) :
    opCfbDec c (keyBuf u) (keyLength u) = opCfbDec c (keyBuf s) (keyLength s) := by
  funext t
  rw [opCfbDec, h.normalize_eq, ← opCfbDec]

theorem SameOperands.opEcbEnc_eq (c : BlockCipher) :
    opEcbEnc c (keyBuf u) (keyLength u) = opEcbEnc c (keyBuf s) (keyLength s) := by
  funext p
  rw [opEcbEnc, h.normalize_eq, ← opEcbEnc]

theorem SameOperands.opEcbDec_eq (c : BlockCipher) :
    opEcbDec c (keyBuf u) (keyLength u) = opEcbDec c (keyBuf s) (keyLength s) := by
  funext t
  rw [opEcbDec, h.normalize_eq, ← opEcbDec]

theorem SameOperands.opCtrEnc_eq (c : BlockCipher) (p iv : Bytes) :
    opCtrEnc c (keyBuf u) (keyLength u) p iv = opCtrEnc c (keyBuf s) (keyLength s) p iv := by
  rw [opCtrEnc, h.ctrKey_eq, ← opCtrEnc]

theorem SameOperands.opCtrDec_eq (q : Params) (c : BlockCipher) :
    opCtrDec q c (keyBuf u) (keyLength u) = opCtrDec q c (keyBuf s) (keyLength s) := by
  funext t
  rw [opCtrDec, h.ctrKey_eq, ← opCtrDec]

theorem SameOperands.ctrEncReadsIv_eq : ctrEncReadsIv u = ctrEncReadsIv s := by
  rw [ctrEncReadsIv, h.keyLength_eq, h.inLength_eq, ← ctrEncReadsIv]

end

/-! ### The same outcome -/

/-- What R110 calls a command's outcome: OUT_LEN, the flags, and OBUF[0..OUT_LEN). -/
structure SameOutcome (t v : State) : Prop where
  outLen : v.outLen = t.outLen
  done : statusDone v.status = statusDone t.status
  err : statusErr v.status = statusErr t.status
  errCode : statusErrCode v.status = statusErrCode t.status
  output : ∀ j, j < t.outLen.toNat → v.byteAt (obufBase + j) = t.byteAt (obufBase + j)

/-- Two completions with the same outcome, or one fault. -/
inductive SameAnswer : Host.Outcome State Fault Refusal → Host.Outcome State Fault Refusal → Prop where
  | completes {t v : State} (h : SameOutcome t v) : SameAnswer (.next t) (.next v)
  | faults (r : Fault) : SameAnswer (.fault r) (.fault r)

theorem SameAnswer.of_next {t : State} {o : Host.Outcome State Fault Refusal} (h : SameAnswer (.next t) o) :
    ∃ v, o = .next v ∧ SameOutcome t v := by
  cases h with
  | completes h => exact ⟨_, rfl, h⟩

theorem sameOutcome_of_completesOk {s t u v : State} {out : Bytes} (ht : CompletesOk s t out)
    (hv : CompletesOk u v out) : SameOutcome t v where
  outLen := hv.outLen.trans ht.outLen.symm
  done := hv.done.trans ht.done.symm
  err := hv.err.trans ht.err.symm
  errCode := hv.errCode.trans ht.errCode.symm
  output j hj := by
    have hle : t.outLen.toNat ≤ out.length := by
      rw [ht.outLen, BitVec.toNat_ofNat]
      exact Nat.mod_le _ _
    rw [hv.output j (by omega), ht.output j (by omega)]

theorem sameOutcome_of_completesErr {s t u v : State} {e : ErrorName} (ht : CompletesErr s t e)
    (hv : CompletesErr u v e) : SameOutcome t v where
  outLen := hv.outLen.trans ht.outLen.symm
  done := hv.done.trans ht.done.symm
  err := hv.err.trans ht.err.symm
  errCode := hv.errCode.trans ht.errCode.symm
  output j hj := by simp [ht.outLen] at hj

/-- A completion's outcome rests on the function's result and OBUF_SIZE alone (R107). -/
theorem sameOutcome_of_completes {s t u v : State} {r : Result} (hcfg : u.cfg = s.cfg) (ht : Completes s t r)
    (hv : Completes u v r) : SameOutcome t v := by
  cases r with
  | err e => exact sameOutcome_of_completesErr ht hv
  | ok out =>
    simp only [Completes, hcfg] at ht hv
    split at ht
    · next hfits => exact sameOutcome_of_completesOk ht (by rwa [if_pos hfits] at hv)
    · next hlong => exact sameOutcome_of_completesErr ht (by rwa [if_neg hlong] at hv)

/-! ### The frames around a command's function -/

theorem withIv_of_curIvsel {s : State} (hsel : s.curIvsel = true)
    (k : State → Bytes → Host.Outcome State Fault Refusal) : withIv s k = k s (ivBuf s) := by
  rw [withIv, if_pos hsel]

theorem withIv_of_draw {s : State} {d : Draw} (hsel : s.curIvsel = false) (hdraw : s.ivDraw = some d)
    (k : State → Bytes → Host.Outcome State Fault Refusal) : withIv s k = k (s.setIvDraw none) d.toList := by
  rw [withIv, if_neg (by simp [hsel]), hdraw]

section
variable {s u : State} (h : SameOperands s u)
include h

theorem SameOperands.finish_same (r : Result) : SameAnswer (.next (finish s r)) (.next (finish u r)) :=
  .completes (sameOutcome_of_completes h.cfg (finish_completes s r) (finish_completes u r))

theorem SameOperands.completeWith_same (reads : Bytes → Nat → Bool) (op : Bytes → Result) :
    SameAnswer (completeWith s reads op) (completeWith u reads op) := by
  rw [completeWith, completeWith, h.readInput_eq]
  cases readInput s reads with
  | none => exact .faults _
  | some p => exact h.finish_same (op p)

theorem SameOperands.checkInput_same {o o' : Host.Outcome State Fault Refusal} (ho : SameAnswer o o') :
    SameAnswer (checkInput s o) (checkInput u o') := by
  rw [checkInput, checkInput, h.inputTooLong_eq]
  split
  · exact h.finish_same _
  · exact ho

/-- A command that needs no IV. -/
theorem SameOperands.checked_same (reads : Bytes → Nat → Bool) (op : Bytes → Result) :
    SameAnswer (checkInput s (completeWith s reads op)) (checkInput u (completeWith u reads op)) :=
  h.checkInput_same (h.completeWith_same reads op)

/-- R105: the IV is an operand too, from either source, when the completion need not wait for it. -/
theorem SameOperands.withIv_same (hiv : s.curIvsel = true ∨ s.ivDraw ≠ none)
    {k : State → Bytes → Host.Outcome State Fault Refusal}
    (hk : ∀ (s' u' : State) (iv : Bytes), SameOperands s' u' → SameAnswer (k s' iv) (k u' iv)) :
    SameAnswer (withIv s k) (withIv u k) := by
  rcases withIv_cases s k with ⟨hsel, hs⟩ | ⟨d, hsel, hdraw, hs⟩ | ⟨hsel, hdraw, -⟩
  · rw [hs, withIv_of_curIvsel (h.curIvsel.trans hsel), h.iv hsel]
    exact hk s u _ h
  · rw [hs, withIv_of_draw (h.curIvsel.trans hsel) ((h.draw hsel).trans hdraw)]
    exact hk _ _ _ h.takeDraw
  · simp [hsel, hdraw] at hiv

/-- R110 for every command, faults included: the frames give the same answer, as the command's function is the same
function of P and the IV. -/
theorem SameOperands.exec_same (i : Instr)
    (hiv : s.curIvsel = true ∨ s.ivDraw ≠ none ∨ (i ≠ .cfbEnc ∧ i ≠ .ctrEnc)) :
    SameAnswer (exec i s) (exec i u) := by
  cases i with
  | keynorm =>
    simp only [exec, execKeynorm, h.opKeynorm_eq]
    exact h.finish_same _
  | pad blksz => exact h.checked_same _ _
  | unpadS => exact h.checked_same _ _
  | unpadL => exact h.checked_same _ _
  | cfbEnc =>
    refine h.checkInput_same (h.withIv_same (by simpa using hiv) fun s' u' iv h' => ?_)
    simp only [h'.opCfbEnc_eq]
    exact h'.completeWith_same _ _
  | cfbDec =>
    simp only [exec, execCfbDec, h.opCfbDec_eq]
    exact h.checked_same _ _
  | ecbEnc typed =>
    simp only [exec, execEcbEnc, h.opEcbEnc_eq]
    exact h.checked_same _ _
  | ecbDec typed =>
    simp only [exec, execEcbDec, h.opEcbDec_eq]
    exact h.checked_same _ _
  | ctrEnc =>
    simp only [exec, execCtrEnc, h.ctrEncReadsIv_eq]
    refine h.checkInput_same ?_
    split
    · refine h.withIv_same (by simpa using hiv) fun s' u' iv h' => ?_
      simp only [h'.opCtrEnc_eq]
      exact h'.completeWith_same _ _
    · simp only [h.opCtrEnc_eq]
      exact h.completeWith_same _ _
  | ctrDec =>
    simp only [exec, execCtrDec, h.opCtrDec_eq]
    rw [h.cfg, h.keyLength_eq]
    exact h.checked_same _ _
  | hexEnc => exact h.checked_same _ _
  | hexDec => exact h.checked_same _ _
  | b64Enc => exact h.checked_same _ _
  | b64Dec =>
    simp only [exec, execB64Dec, h.cfg]
    exact h.checked_same _ _

end

/-- Settles O54: `SameOperands.exec_same`, for a command that completes. -/
theorem outcomeDependsOnlyOnTheOperands : Obligations.OutcomeDependsOnlyOnTheOperands := by
  intro i s u t h hiv hexec
  obtain ⟨v, hv, hsame⟩ := (hexec ▸ h.exec_same i hiv).of_next
  exact ⟨v, hv, hsame.outLen, hsame.done, hsame.err, hsame.errCode, hsame.output⟩

end Sys2Proof.Machine
end

section
/-! PROOFS. Accept (spec/40_dispatch.md R100): a write to CMD while IDLE. -/

namespace Sys2Proof.Machine

theorem unlessBusy_of_idle {s : State} (h : s.phase = .idle) (t : State) : unlessBusy s t = t :=
  if_neg (by simp [h])

/-- R100: the whole next state of a write to CMD while IDLE, whatever the word. -/
theorem hostWrite_cmd_of_idle {s : State} (h : s.phase = .idle) (w : Word) :
    hostWrite s 0x0008 .word w = .next (accept s w) := by
  have hadm : admitted 0x0008 .word = true := by decide
  rw [hostWrite_register w hadm (by decide)]
  exact congrArg _ (unlessBusy_of_idle h (accept s w))

/-- Settles O11: the next state is `accept`'s, which writes CMD, cur_ivsel, OUT_LEN, STATUS and the phase alone. -/
theorem cmdWriteWhileIdleAccepts : Obligations.CmdWriteWhileIdleAccepts := by
  intro s w rest hidle hsched
  have hstep : step s = .next (accept (s.setSchedule rest) w) := by
    rw [step_cons hsched]
    exact hostWrite_cmd_of_idle (s := s.setSchedule rest) hidle w
  exact ⟨_, hstep, rfl, rfl, rfl, statusBusy_statusAccepted s.status, statusDone_statusAccepted s.status,
    statusErr_statusAccepted s.status, statusErrCode_statusAccepted s.status, rfl,
    statusBusyWr_statusAccepted s.status, rfl, rfl, rfl, rfl, rfl, rfl, rfl, rfl, reserved_statusAccepted s.status⟩

end Sys2Proof.Machine
end

section
/-! PROOFS. The key normalizer and the padding functions (spec/41_key_padding.md). A pad of n bytes of value n is what both
unpads take off; the strict one answers Ok on exactly the inputs that end in such a pad with 1 ≤ n ≤ 16. -/

namespace Sys2Proof.Machine

/-! ### KEYNORM (R130, R131) -/

@[simp] theorem normalize_length (kb : Bytes) (kl : Nat) : (normalize kb kl).length = 16 := by simp [normalize]

theorem normalize_getD (kb : Bytes) (kl : Nat) {j : Nat} (hj : j < 16) :
    (normalize kb kl).getD j 0 = if j < kl then kb.getD j 0 else 0 := by
  simp [normalize, hj]

/-- KEYBUF holds a value in every byte (R32). -/
theorem byteAt_keybuf (s : State) {j : Nat} (hj : j < 32) :
    s.byteAt (keybufBase + j) = some ((keyBuf s).getD j 0) := by
  have hsome : (s.byteAt (keybufBase + j)).isSome = true := by
    rw [byteAt_def, Memory.read]
    split
    · rfl
    · have hrange : keybufBase ≤ keybufBase + j ∧ keybufBase + j < ivbufBase + ivbufSize := by
        unfold keybufBase ivbufBase ivbufSize
        omega
      rw [Memory.unlisted, if_pos hrange]
      rfl
  obtain ⟨v, hv⟩ := Option.isSome_iff_exists.mp hsome
  rw [byteAt_def] at hv
  simp [keyBuf, bufferBytes, keybufSize, hj, hv]

/-- R3: a legal OBUF has room for a key. -/
theorem key_fits_obuf {p : Params} (h : p.legal = true) : 16 ≤ p.obufSize := by
  simp only [Params.legal, Bool.and_eq_true, decide_eq_true_eq] at h
  omega

/-- Settles O30: KEYNORM finishes with the normalized key, which fits OBUF. -/
theorem keynormWritesTheNormalizedKey : Obligations.KeynormWritesTheNormalizedKey := by
  refine ⟨by decide, fun s hlegal => ?_⟩
  have hfits : (normalize (keyBuf s) (keyLength s)).length ≤ s.cfg.obufSize := by
    rw [normalize_length]; exact key_fits_obuf hlegal
  have hdone := finish_completes s (.ok (normalize (keyBuf s) (keyLength s)))
  rw [Completes, if_pos hfits] at hdone
  refine ⟨_, _, rfl, hdone, finish_ivDraw s _, normalize_length _ _, fun j hj => ?_⟩
  rw [normalize_getD _ _ hj]
  split
  · next hlt => exact (byteAt_keybuf s (by omega)).trans (congrArg some (if_pos hlt).symm)
  · next hge => exact if_neg hge

/-! ### A pad of n bytes of value n -/

theorem toNat_padByte {n : Nat} (hn : n ≤ 255) : (BitVec.ofNat 8 n).toNat = n := by
  rw [BitVec.toNat_ofNat]
  exact Nat.mod_eq_of_lt (by omega)

theorem getLast?_append_replicate (q : Bytes) {n : Nat} (hn : 1 ≤ n) (v : Byte) :
    (q ++ List.replicate n v).getLast? = some v := by
  simp [List.getLast?_append, List.getLast?_replicate, show n ≠ 0 by omega]

/-! ### The lenient unpad (R136) -/

theorem unpadLenient_of_getLast? {d : Bytes} {x : Byte} (h : d.getLast? = some x) :
    unpadLenient d = if d.length < x.toNat then d else d.take (d.length - x.toNat) := by
  rw [unpadLenient, h]

theorem unpadLenient_append_replicate (q : Bytes) {n : Nat} (hlo : 1 ≤ n) (hhi : n ≤ 255) :
    unpadLenient (q ++ List.replicate n (BitVec.ofNat 8 n)) = q := by
  rw [unpadLenient_of_getLast? (getLast?_append_replicate q hlo _), toNat_padByte hhi]
  simp

/-! ### The strict unpad (R134) -/

theorem unpadStrict_append_replicate (q : Bytes) {n : Nat} (hlo : 1 ≤ n) (hhi : n ≤ 16) :
    unpadStrict (q ++ List.replicate n (BitVec.ofNat 8 n)) = .ok q := by
  rw [unpadStrict, getLast?_append_replicate q hlo]
  simp [toNat_padByte (show n ≤ 255 by omega), show n ≠ 0 by omega, Nat.not_lt.mpr hhi]

/-- Bytes that all are `x`, as many as `x` says, are a pad. -/
theorem eq_append_replicate_of_all {d : Bytes} {x : Byte} (hlen : x.toNat ≤ d.length)
    (hall : (d.drop (d.length - x.toNat)).all (fun y => decide (y = x)) = true) :
    d = d.take (d.length - x.toNat) ++ List.replicate x.toNat (BitVec.ofNat 8 x.toNat) := by
  have hdrop : d.drop (d.length - x.toNat) = List.replicate x.toNat x := by
    refine List.eq_replicate_iff.mpr ⟨by rw [List.length_drop]; omega, fun y hy => ?_⟩
    exact of_decide_eq_true (List.all_eq_true.mp hall y hy)
  rw [BitVec.ofNat_toNat, BitVec.setWidth_eq, ← hdrop, List.take_append_drop]

/-- Everything the strict unpad can answer. -/
theorem unpadStrict_cases (d : Bytes) :
    (∃ q n, 1 ≤ n ∧ n ≤ 16 ∧ d = q ++ List.replicate n (BitVec.ofNat 8 n) ∧ unpadStrict d = .ok q)
    ∨ unpadStrict d = .err .invalidPadding := by
  cases hlast : d.getLast? with
  | none => exact .inr (by rw [unpadStrict, hlast])
  | some x =>
    by_cases hform : x.toNat ≠ 0 ∧ x.toNat ≤ d.length ∧ x.toNat ≤ 16
        ∧ (d.drop (d.length - x.toNat)).all (fun y => decide (y = x)) = true
    · obtain ⟨hpos, hlen, hceil, hall⟩ := hform
      have hd := eq_append_replicate_of_all hlen hall
      have hlo : 1 ≤ x.toNat := by omega
      refine .inl ⟨_, _, hlo, hceil, hd, ?_⟩
      conv_lhs => rw [hd]
      exact unpadStrict_append_replicate _ hlo hceil
    · refine .inr ?_
      simp only [unpadStrict, hlast]
      split_ifs with hzero hshort hceil hall
      · rfl
      · rfl
      · rfl
      · exact absurd ⟨hzero, by omega, by omega, hall⟩ hform
      · rfl

theorem unpadStrict_eq_ok_iff {d q : Bytes} :
    unpadStrict d = .ok q ↔ ∃ n, 1 ≤ n ∧ n ≤ 16 ∧ d = q ++ List.replicate n (BitVec.ofNat 8 n) := by
  refine ⟨fun h => ?_, fun ⟨n, hlo, hhi, hd⟩ => hd ▸ unpadStrict_append_replicate q hlo hhi⟩
  rcases unpadStrict_cases d with ⟨q', n, hlo, hhi, hd, hok⟩ | herr
  · obtain rfl : q' = q := Result.ok.inj (hok.symm.trans h)
    exact ⟨n, hlo, hhi, hd⟩
  · rw [herr] at h
    cases h

/-- A last byte that is no pad length from 1 to 16. -/
theorem unpadStrict_of_bad_last {d : Bytes} {x : Byte} (hlast : d.getLast? = some x)
    (hx : x.toNat = 0 ∨ 16 < x.toNat) : unpadStrict d = .err .invalidPadding := by
  rcases unpadStrict_cases d with ⟨q, n, hlo, hhi, hd, -⟩ | herr
  · rw [hd, getLast?_append_replicate q hlo, Option.some.injEq] at hlast
    rw [← hlast, toNat_padByte (by omega)] at hx
    omega
  · exact herr

/-! ### UNPAD_S and UNPAD_L (R135, R137) -/

/-- A command that needs no IV, on a written input that is not too long: it completes with its function's result and takes
no draw. -/
theorem checked_completes_of_inputIs {s : State} {p : Bytes} (h : InputIs s p) (reads : Bytes → Nat → Bool)
    (op : Bytes → Result) :
    ∃ t, checkInput s (completeWith s reads op) = .next t ∧ Completes s t (op p) ∧ t.ivDraw = s.ivDraw := by
  rw [checkInput_of_inputIs h, completeWith_of_inputIs h]
  exact ⟨_, rfl, finish_completes s _, finish_ivDraw s _⟩

theorem unpadS_completes {s : State} {p : Bytes} (h : InputIs s p) :
    ∃ t, exec .unpadS s = .next t ∧ Completes s t (unpadStrict p) ∧ t.ivDraw = s.ivDraw :=
  checked_completes_of_inputIs h readsUnpadS opUnpadS

theorem unpadL_completes {s : State} {p : Bytes} (h : InputIs s p) :
    ∃ t, exec .unpadL s = .next t ∧ Completes s t (.ok (unpadLenient p)) ∧ t.ivDraw = s.ivDraw :=
  checked_completes_of_inputIs h readsUnpadL opUnpadL

/-- Settles O32: UNPAD_S completes with what `unpadStrict` says of P, and `unpadStrict_cases` leaves INVALID_PADDING where
P ends in no pad. -/
theorem unpadStrictVerifiesThePad : Obligations.UnpadStrictVerifiesThePad := by
  refine ⟨by decide, fun s p hin => ⟨fun q n hlo hhi hp => ?_, fun hno => ?_⟩⟩
  · have hok : unpadStrict p = .ok q := unpadStrict_eq_ok_iff.mpr ⟨n, hlo, hhi, hp⟩
    exact hok ▸ unpadS_completes hin
  · have herr : unpadStrict p = .err .invalidPadding := by
      rcases unpadStrict_cases p with ⟨q, n, hlo, hhi, hp, -⟩ | herr
      · exact absurd hp (hno q n hlo hhi)
      · exact herr
    obtain ⟨t, hexec, hdone, hdraw⟩ := unpadS_completes hin
    rw [herr] at hdone
    exact ⟨t, hexec, hdone, hdraw⟩

/-- Settles O33: UNPAD_L completes with `unpadLenient P`, whose value the last byte of P decides. -/
theorem unpadLenientTrims : Obligations.UnpadLenientTrims := by
  refine ⟨by decide, fun s p hin => ⟨?_, ?_⟩⟩
  · rintro rfl
    exact unpadL_completes hin
  · rintro q x rfl
    obtain ⟨t, hexec, hdone, hdraw⟩ := unpadL_completes hin
    rw [unpadLenient_of_getLast? List.getLast?_concat] at hdone
    exact ⟨t, hexec, hdraw, hdone⟩

/-! ### The laws of R139 -/

/-- R132: the pad length. -/
theorem padLength_bounds (l : Nat) {b : Nat} (hb : 1 ≤ b) : 1 ≤ b - l % b ∧ b - l % b ≤ b := by
  have := Nat.mod_lt l hb
  omega

theorem add_padLength_mod (l : Nat) {b : Nat} (hb : 1 ≤ b) : (l + (b - l % b)) % b = 0 := by
  have hlt := Nat.mod_lt l hb
  have hsum : l + (b - l % b) = b * (l / b + 1) := by
    have := Nat.div_add_mod l b
    rw [Nat.mul_succ]
    omega
  rw [hsum, Nat.mul_mod_right]

theorem pad_length (d : Bytes) (b : Nat) : (pad d b).length = d.length + (b - d.length % b) := by simp [pad]

/-- Settles O34: a padded D ends in a pad of 1 to b bytes, which `unpadLenient` takes off whatever its length, and
`unpadStrict` if and only if its length is at most 16. -/
theorem paddingLaws : Obligations.PaddingLaws := by
  intro d b hlo hhi
  obtain ⟨hpos, hle⟩ := padLength_bounds d.length hlo
  refine ⟨?_, ?_, ?_, ?_, fun hb => ?_, fun _ hlong => ?_, fun x hx => ?_, fun v hv => ?_⟩
  · rw [pad_length, add_padLength_mod _ hlo]
  · rw [pad_length]; omega
  · rw [pad_length]; omega
  · exact unpadLenient_append_replicate d hpos (by omega)
  · exact unpadStrict_append_replicate d hpos (by omega)
  · exact unpadStrict_of_bad_last (getLast?_append_replicate d hpos _)
      (.inr (by rw [toNat_padByte (by omega)]; exact hlong))
  · obtain ⟨n, hn, hceil, rfl⟩ := unpadStrict_eq_ok_iff.mp hx
    exact unpadLenient_append_replicate x hn (by omega)
  · exact unpadStrict_of_bad_last List.getLast?_concat (hv.imp_left fun hzero => congrArg BitVec.toNat hzero)

end Sys2Proof.Machine
end

section
/-! PROOFS. The lengths of the FIPS-197 cipher (spec/45_codecs.md R210): a round key has 16 bytes, and each round keeps a
block's 16. -/

namespace Sys2Proof.Machine

/-! ### The rounds' operations -/

theorem xorBytes_length {n : Nat} {s t : Bytes} (hs : s.length = n) (ht : t.length = n) : (xorBytes s t).length = n := by
  simp [xorBytes, hs, ht]

@[simp] theorem subBytes_length (b : Bytes) : (subBytes b).length = b.length := List.length_map sbox

@[simp] theorem shiftRows_length (b : Bytes) : (shiftRows b).length = 16 := rfl

/-- A sequence with no column of four bytes in front. -/
theorem length_lt_four_of_no_column {x : Bytes} (h : ∀ a b c d t, x = a :: b :: c :: d :: t → False) : x.length < 4 := by
  match x with
  | [] | [_] | [_, _] | [_, _, _] => simp
  | a :: b :: c :: d :: t => exact (h a b c d t rfl).elim

theorem mixColumns_length (b : Bytes) : (mixColumns b).length = 4 * (b.length / 4) := by
  induction b using mixColumns.induct with
  | case1 a b c d t ih =>
    rw [mixColumns, List.length_append, ih]
    simp only [mixColumn, List.length_cons, List.length_nil]
    omega
  | case2 b hshort =>
    have hlt := length_lt_four_of_no_column hshort
    rw [mixColumns]
    · simp only [List.length_nil]; omega
    · exact hshort

/-! ### The key expansion -/

theorem toWords_length (k : Bytes) : (toWords k).length = k.length / 4 := by
  induction k using toWords.induct with
  | case1 a b c d t ih =>
    rw [toWords, List.length_cons, ih]
    simp only [List.length_cons]
    omega
  | case2 k hshort =>
    have hlt := length_lt_four_of_no_column hshort
    rw [toWords]
    · simp only [List.length_nil]; omega
    · exact hshort

theorem length_of_mem_toWords {k w : Bytes} (hw : w ∈ toWords k) : w.length = 4 := by
  induction k using toWords.induct with
  | case1 a b c d t ih =>
    rw [toWords, List.mem_cons] at hw
    rcases hw with rfl | hw
    · rfl
    · exact ih hw
  | case2 k hshort =>
    rw [toWords] at hw
    · cases hw
    · exact hshort

@[simp] theorem rotWord_length (w : Bytes) : (rotWord w).length = w.length := by
  cases w with
  | nil => rfl
  | cons a t => simp [rotWord]

theorem keyTemp_length (nk i : Nat) {w : Bytes} (hw : w.length = 4) : (keyTemp nk i w).length = 4 := by
  unfold keyTemp
  split_ifs
  · exact xorBytes_length (by simpa using hw) rfl
  · simpa using hw
  · exact hw

/-- The expanded key is one of words of 4 bytes, when the key has a word and none of its Nk words is missing. -/
theorem length_of_mem_expandWords {nk : Nat} (hnk : 1 ≤ nk) (n i : Nat) (ws : List Bytes) (hlen : nk ≤ ws.length)
    (hws : ∀ w ∈ ws, w.length = 4) : ∀ w ∈ expandWords nk n i ws, w.length = 4 := by
  induction n generalizing i ws with
  | zero => exact hws
  | succ n ih =>
    refine ih (i + 1) _ (by rw [List.length_cons]; omega) ?_
    obtain ⟨prev, rest, rfl⟩ : ∃ prev rest, ws = prev :: rest := List.exists_cons_of_length_pos (by omega)
    have hold : ((prev :: rest).getD (nk - 1) []).length = 4 := by
      rw [List.getD_eq_getElem _ _ (by omega)]
      exact hws _ (List.getElem_mem _)
    have hprev : prev.length = 4 := hws prev List.mem_cons_self
    exact List.forall_mem_cons.mpr ⟨xorBytes_length hold (keyTemp_length nk i hprev), hws⟩

theorem length_of_mem_toRoundKeys {ws : List Bytes} (hws : ∀ w ∈ ws, w.length = 4) :
    ∀ rk ∈ toRoundKeys ws, rk.length = 16 := by
  induction ws using toRoundKeys.induct with
  | case1 a b c d t ih =>
    simp only [List.forall_mem_cons] at hws
    obtain ⟨ha, hb, hc, hd, ht⟩ := hws
    rw [toRoundKeys]
    exact List.forall_mem_cons.mpr ⟨by simp [ha, hb, hc, hd], ih ht⟩
  | case2 ws hshort =>
    rw [toRoundKeys]
    · exact List.forall_mem_nil _
    · exact hshort

theorem length_of_mem_roundKeys {k : Bytes} (hk : 4 ≤ k.length) : ∀ rk ∈ roundKeys k, rk.length = 16 := by
  refine length_of_mem_toRoundKeys fun w hw => ?_
  refine length_of_mem_expandWords (by omega) _ _ _ ?_ (fun v hv => ?_) w (List.mem_reverse.mp hw)
  · rw [List.length_reverse, toWords_length]
  · exact length_of_mem_toWords (List.mem_reverse.mp hv)

/-! ### The cipher -/

theorem encRounds_length (rks : List Bytes) (hrks : ∀ rk ∈ rks, rk.length = 16) {b : Bytes} (hb : b.length = 16) :
    (encRounds rks b).length = 16 := by
  induction rks, b using encRounds.induct with
  | case1 b => exact hb
  | case2 rk b => exact xorBytes_length (shiftRows_length _) (hrks rk List.mem_cons_self)
  | case3 rk rks b hne ih =>
    obtain ⟨hrk, hrks⟩ := List.forall_mem_cons.mp hrks
    rw [encRounds]
    · exact ih hrks (xorBytes_length (by simp [mixColumns_length]) hrk)
    · exact hne

/-- R210: AES_Enc gives a block of 16 bytes. -/
theorem fips197_enc_length {k b : Bytes} (hk : 4 ≤ k.length) (hb : b.length = 16) : (fips197.enc k b).length = 16 := by
  have hrks := length_of_mem_roundKeys hk
  change (aesEnc k b).length = 16
  unfold aesEnc
  split
  · exact hb
  · next rk rks heq =>
    obtain ⟨hrk, hrks⟩ := List.forall_mem_cons.mp (heq ▸ hrks)
    exact encRounds_length rks hrks (xorBytes_length hb hrk)

end Sys2Proof.Machine
end

section
/-! PROOFS. Hex text (spec/45_codecs.md R212, R213): decoding takes back what encoding gave. -/

namespace Sys2Proof.Machine

@[simp] theorem hexEncode_nil : hexEncode [] = [] := rfl

@[simp] theorem hexEncode_cons (b : Byte) (d : Bytes) :
    hexEncode (b :: d) = hexDigit (b.toNat / 16) :: hexDigit (b.toNat % 16) :: hexEncode d := rfl

theorem hexEncode_append (d e : Bytes) : hexEncode (d ++ e) = hexEncode d ++ hexEncode e := List.flatMap_append

@[simp] theorem hexEncode_length (d : Bytes) : (hexEncode d).length = 2 * d.length := by
  induction d with
  | nil => rfl
  | cons b d ih =>
    simp only [hexEncode_cons, List.length_cons, ih]
    omega

theorem take_hexEncode_append {n : Nat} {d : Bytes} (e : Bytes) (hd : 2 * d.length = n) :
    (hexEncode (d ++ e)).take n = hexEncode d := by
  rw [hexEncode_append, List.take_left' (by rw [hexEncode_length, hd])]

theorem hexVal_hexDigit {v : Nat} (hv : v < 16) : hexVal (hexDigit v) = some v :=
  (by decide : ∀ w : Fin 16, hexVal (hexDigit w) = some w.val) ⟨v, hv⟩

theorem hexPairs_hexEncode (d : Bytes) : hexPairs (hexEncode d) = some d := by
  induction d with
  | nil => rfl
  | cons b d ih =>
    have hhi : b.toNat / 16 < 16 := by have := b.isLt; omega
    have hlo : b.toNat % 16 < 16 := Nat.mod_lt _ (by decide)
    rw [hexEncode_cons, hexPairs, hexVal_hexDigit hhi, hexVal_hexDigit hlo, ih]
    simp only [Nat.div_add_mod, BitVec.ofNat_toNat, BitVec.setWidth_eq]

theorem hexDecode_hexEncode (d : Bytes) : hexDecode (hexEncode d) = .ok d := by
  rw [hexDecode, if_neg (by rw [hexEncode_length]; omega), hexPairs_hexEncode]

end Sys2Proof.Machine
end

section
/-! PROOFS. A sequence block by block (spec/42_cfb.md R150, spec/43_ecb.md R170): `blocksOf` takes one block of at most 16
bytes off the front, and only the last block is shorter. -/

namespace Sys2Proof.Machine

/-- `x` is the first block of `x ++ t`: 1 to 16 bytes, all 16 where more follow. -/
structure IsFirstBlock (x t : Bytes) : Prop where
  nonempty : x ≠ []
  atMost : x.length ≤ 16
  whole : t ≠ [] → x.length = 16

/-- The block stays one when its bytes, and those after it, take other values. -/
theorem IsFirstBlock.of_length_eq {x t y u : Bytes} (h : IsFirstBlock x t) (hy : y.length = x.length)
    (hu : u.length = t.length) : IsFirstBlock y u where
  nonempty := by
    rw [← List.length_pos_iff, hy]
    exact List.length_pos_iff.mpr h.nonempty
  atMost := hy ▸ h.atMost
  whole hne := by
    rw [hy]
    refine h.whole ?_
    rwa [← List.length_pos_iff, ← hu, List.length_pos_iff]

theorem IsFirstBlock.append_ne_nil {x t : Bytes} (h : IsFirstBlock x t) : x ++ t ≠ [] :=
  List.append_ne_nil_of_left_ne_nil h.nonempty t

theorem isFirstBlock_take {d : Bytes} (hd : d ≠ []) : IsFirstBlock (d.take 16) (d.drop 16) where
  nonempty := by simp [hd]
  atMost := List.length_take_le 16 d
  whole hmore := by
    have hlong : 16 < d.length := by simpa using hmore
    rw [List.length_take]
    omega

/-- Every sequence is built of blocks. -/
theorem block_induction {motive : Bytes → Prop} (nil : motive [])
    (block : ∀ x t, IsFirstBlock x t → motive t → motive (x ++ t)) (d : Bytes) : motive d :=
  if hd : d = [] then hd ▸ nil
  else List.take_append_drop 16 d ▸
    block (d.take 16) (d.drop 16) (isFirstBlock_take hd) (block_induction nil block (d.drop 16))
termination_by d.length
decreasing_by
  have := List.length_pos_iff.mpr hd
  rw [List.length_drop]
  omega

/-- Any number of pieces that is enough gives the same blocks. -/
theorem cutBlocks_eq_of_length_le {n m : Nat} {d : Bytes} (hn : d.length ≤ n) (hm : d.length ≤ m) :
    cutBlocks n d = cutBlocks m d := by
  induction n generalizing m d with
  | zero =>
    obtain rfl := List.length_eq_zero_iff.mp (Nat.le_zero.mp hn)
    cases m <;> rfl
  | succ n ih =>
    match d, m with
    | [], 0 | [], _ + 1 => rfl
    | b :: bs, m + 1 =>
      rw [List.length_cons] at hn hm
      have hrest : ((b :: bs).drop 16).length ≤ bs.length := by simp
      rw [cutBlocks, cutBlocks, ih (by omega) (m := m) (by omega)]

@[simp] theorem blocksOf_nil : blocksOf [] = [] := rfl

theorem blocksOf_append {x t : Bytes} (h : IsFirstBlock x t) : blocksOf (x ++ t) = x :: blocksOf t := by
  have htake : (x ++ t).take 16 = x := by
    by_cases ht : t = []
    · rw [ht, List.append_nil, List.take_of_length_le h.atMost]
    · exact List.take_left' (h.whole ht)
  have hdrop : (x ++ t).drop 16 = t := by
    have hsplit := List.take_append_drop 16 (x ++ t)
    rw [htake] at hsplit
    exact List.append_cancel_left hsplit
  obtain ⟨b, bs, rfl⟩ := List.exists_cons_of_ne_nil h.nonempty
  rw [blocksOf, List.cons_append, List.length_cons, cutBlocks, ← List.cons_append, htake, hdrop,
    cutBlocks_eq_of_length_le (by simp) le_rfl, ← blocksOf]

end Sys2Proof.Machine
end

section
/-! PROOFS. Commands that take an IV (spec/40_dispatch.md R105): with a written input and an IV from either source they
complete with their function's result. -/

namespace Sys2Proof.Machine

theorem completesOk_of_fits {s t : State} {out : Bytes} (h : Completes s t (.ok out)) (hfits : out.length ≤ s.cfg.obufSize) :
    CompletesOk s t out := by
  rwa [Completes, if_pos hfits] at h

theorem IvIs.length_eq {s : State} {iv : Bytes} (h : IvIs s iv) : iv.length = 16 := by
  rcases h with ⟨-, rfl⟩ | ⟨-, d, -, rfl⟩
  · exact ivBuf_length s
  · exact d.length_toList

/-- A completion speaks of all the state but the offer. -/
theorem completesOk_of_setIvDraw {s t : State} {v : Option Draw} {out : Bytes}
    (h : CompletesOk (s.setIvDraw v) t out) : CompletesOk s t out := { h with }

theorem completesErr_of_setIvDraw {s t : State} {v : Option Draw} {e : ErrorName}
    (h : CompletesErr (s.setIvDraw v) t e) : CompletesErr s t e := { h with }

theorem completes_of_setIvDraw {s t : State} {v : Option Draw} {r : Result} (h : Completes (s.setIvDraw v) t r) :
    Completes s t r := by
  cases r with
  | err e => exact completesErr_of_setIvDraw h
  | ok out =>
    by_cases hfits : out.length ≤ s.cfg.obufSize
    · exact (if_pos hfits).mpr (completesOk_of_setIvDraw ((if_pos hfits).mp h))
    · exact (if_neg hfits).mpr (completesErr_of_setIvDraw ((if_neg hfits).mp h))

/-- A command that needs the IV, on a written input with its IV there: it completes with its function's result, and takes
the draw if that is the IV. -/
theorem checkedWithIv_completes {s : State} {p iv : Bytes} (hin : InputIs s p) (hiv : IvIs s iv)
    (reads : Bytes → Nat → Bool) (op : State → Bytes → Bytes → Result) (hop : op (s.setIvDraw none) = op s) :
    ∃ t, checkInput s (withIv s fun t iv => completeWith t reads (op t iv)) = .next t ∧ Completes s t (op s iv p)
      ∧ t.ivDraw = if s.curIvsel then s.ivDraw else none := by
  rw [checkInput_of_inputIs hin]
  rcases hiv with ⟨hsel, rfl⟩ | ⟨hsel, d, hdraw, rfl⟩
  · rw [withIv_of_curIvsel hsel, completeWith_of_inputIs hin]
    exact ⟨_, rfl, finish_completes s _, by simp [hsel]⟩
  · rw [withIv_of_draw hsel hdraw, completeWith_of_inputIs (inputIs_setIvDraw hin none), hop]
    exact ⟨_, rfl, completes_of_setIvDraw (finish_completes _ _), by simp [hsel]⟩

end Sys2Proof.Machine
end

section
/-! PROOFS. The CFB family (spec/42_cfb.md). Decryption is known byte by byte, and it takes back what encryption gave; so
encryption is known byte by byte too, as both xor with the encryption of the previous ciphertext block. -/

namespace Sys2Proof.Machine

/-! ### Exclusive-or with a keystream block (R7) -/

theorem xorPrefix_length {x ks : Bytes} (h : x.length ≤ ks.length) : (xorPrefix x ks).length = x.length := by
  simpa [xorPrefix] using h

theorem xorPrefix_getD {x ks : Bytes} {i : Nat} (hx : i < x.length) (hks : i < ks.length) :
    (xorPrefix x ks).getD i 0 = x.getD i 0 ^^^ ks.getD i 0 := by
  simp [xorPrefix, hx, hks]

theorem xorPrefix_xorPrefix {x ks : Bytes} (h : x.length ≤ ks.length) : xorPrefix (xorPrefix x ks) ks = x := by
  refine List.ext_getElem (by simpa [xorPrefix] using h) fun i _ _ => ?_
  simp [xorPrefix]

/-! ### The two functions, a block at a time (R150, R151) -/

@[simp] theorem cfbEncrypt_nil (c : BlockCipher) (k prev : Bytes) : cfbEncrypt c k prev [] = [] := rfl

@[simp] theorem cfbDecrypt_nil (c : BlockCipher) (k prev : Bytes) : cfbDecrypt c k prev [] = [] := rfl

theorem cfbEncrypt_append (c : BlockCipher) (k prev : Bytes) {x t : Bytes} (h : IsFirstBlock x t) :
    cfbEncrypt c k prev (x ++ t)
      = xorPrefix x (c.enc k prev) ++ cfbEncrypt c k (xorPrefix x (c.enc k prev)) t := by
  rw [cfbEncrypt, blocksOf_append h]
  rfl

theorem cfbDecrypt_append (c : BlockCipher) (k prev : Bytes) {x t : Bytes} (h : IsFirstBlock x t) :
    cfbDecrypt c k prev (x ++ t) = xorPrefix x (c.enc k prev) ++ cfbDecrypt c k x t := by
  rw [cfbDecrypt, blocksOf_append h]
  rfl

section
variable {c : BlockCipher} {k : Bytes} (henc : ∀ b : Bytes, b.length = 16 → (c.enc k b).length = 16)
include henc

/-- A keystream block is long enough for every block of data. -/
theorem IsFirstBlock.le_keystream {x t prev : Bytes} (h : IsFirstBlock x t) (hprev : prev.length = 16) :
    x.length ≤ (c.enc k prev).length := by
  rw [henc prev hprev]
  exact h.atMost

/-! The inductions below ask 16 bytes of the feedback only where a block is left to take it: after a short last block it
has fewer. -/

theorem cfbEncrypt_length_of_feedback (d prev : Bytes) (hprev : d ≠ [] → prev.length = 16) :
    (cfbEncrypt c k prev d).length = d.length := by
  induction d using block_induction generalizing prev with
  | nil => rfl
  | block x t h ih =>
    have hx := xorPrefix_length (h.le_keystream henc (hprev h.append_ne_nil))
    rw [cfbEncrypt_append c k prev h, List.length_append, List.length_append, hx,
      ih _ fun ht => hx.trans (h.whole ht)]

theorem cfbDecrypt_length_of_feedback (d prev : Bytes) (hprev : d ≠ [] → prev.length = 16) :
    (cfbDecrypt c k prev d).length = d.length := by
  induction d using block_induction generalizing prev with
  | nil => rfl
  | block x t h ih =>
    have hx := xorPrefix_length (h.le_keystream henc (hprev h.append_ne_nil))
    rw [cfbDecrypt_append c k prev h, List.length_append, List.length_append, hx, ih x h.whole]

theorem cfbDecrypt_cfbEncrypt_of_feedback (d prev : Bytes) (hprev : d ≠ [] → prev.length = 16) :
    cfbDecrypt c k prev (cfbEncrypt c k prev d) = d := by
  induction d using block_induction generalizing prev with
  | nil => rfl
  | block x t h ih =>
    have hle := h.le_keystream henc (hprev h.append_ne_nil)
    have hx := xorPrefix_length hle
    have hfeed : t ≠ [] → (xorPrefix x (c.enc k prev)).length = 16 := fun ht => hx.trans (h.whole ht)
    have hfirst := h.of_length_eq hx (cfbEncrypt_length_of_feedback henc t _ hfeed)
    rw [cfbEncrypt_append c k prev h, cfbDecrypt_append c k prev hfirst, xorPrefix_xorPrefix hle, ih _ hfeed]

/-- R151 byte by byte: block j of the keystream is AES_Enc of block j of the IV and the ciphertext after it. -/
theorem cfbDecrypt_getD {d prev : Bytes} {j i : Nat} (hprev : prev.length = 16) (hi : i < 16)
    (hlt : 16 * j + i < d.length) :
    (cfbDecrypt c k prev d).getD (16 * j + i) 0
      = d.getD (16 * j + i) 0 ^^^ (c.enc k (((prev ++ d).drop (16 * j)).take 16)).getD i 0 := by
  induction d using block_induction generalizing prev j with
  | nil => simp at hlt
  | block x t h ih =>
    have hle := h.le_keystream henc hprev
    rw [cfbDecrypt_append c k prev h]
    cases j with
    | zero =>
      have hix : i < x.length := by
        by_cases ht : t = []
        · simpa [ht] using hlt
        · rw [h.whole ht]; exact hi
      rw [Nat.mul_zero, Nat.zero_add, List.drop_zero, List.take_left' hprev,
        List.getD_append _ _ _ _ (by rwa [xorPrefix_length hle]), List.getD_append _ _ _ _ hix,
        xorPrefix_getD hix (by omega)]
    | succ j =>
      have hx : x.length = 16 := by
        refine h.whole fun ht => ?_
        have := h.atMost
        rw [ht, List.append_nil] at hlt
        omega
      have hidx : 16 * (j + 1) + i = 16 + (16 * j + i) := by omega
      have hdrop : (prev ++ (x ++ t)).drop (16 * (j + 1)) = (x ++ t).drop (16 * j) := by
        rw [show 16 * (j + 1) = prev.length + 16 * j by omega, List.drop_length_add_append]
      rw [List.length_append] at hlt
      rw [hdrop, hidx, List.getD_append_right _ _ _ _ (by rw [xorPrefix_length hle]; omega),
        List.getD_append_right _ _ _ _ (by omega), xorPrefix_length hle, hx, Nat.add_sub_cancel_left,
        ih hx (by omega)]

end

/-- Settles O35: `cfbDecrypt_getD` says the decryption, and at the output of the encryption, whose decryption is the input,
it says the encryption. -/
theorem cfbChainsCiphertextBlocks : Obligations.CfbChainsCiphertextBlocks := by
  intro c k iv d hlaw hk hiv
  have henc : ∀ b : Bytes, b.length = 16 → (c.enc k b).length = 16 := fun b hb => (hlaw k b hk hb).1
  have hlen := cfbEncrypt_length_of_feedback henc d iv fun _ => hiv
  refine ⟨hlen, cfbDecrypt_length_of_feedback henc d iv fun _ => hiv, fun j i hi hlt => ⟨?_, ?_⟩⟩
  · have hback := cfbDecrypt_getD henc hiv hi (hlen.symm ▸ hlt)
    rw [cfbDecrypt_cfbEncrypt_of_feedback henc d iv fun _ => hiv] at hback
    rw [hback, BitVec.xor_assoc, BitVec.xor_self, BitVec.xor_zero]
  · exact cfbDecrypt_getD henc hiv hi hlt

/-! ### CFB_DEC (R153) -/

theorem cfbDec_completes {s : State} {p : Bytes} (h : InputIs s p) :
    ∃ t, exec .cfbDec s = .next t ∧ Completes s t (opCfbDec fips197 (keyBuf s) (keyLength s) p) ∧ t.ivDraw = s.ivDraw :=
  checked_completes_of_inputIs h readsHex (opCfbDec fips197 (keyBuf s) (keyLength s))

theorem opCfbDec_of_err (c : BlockCipher) (kb : Bytes) (kl : Nat) {p : Bytes} {e : ErrorName} (h : hexDecode p = .err e) :
    opCfbDec c kb kl p = .err e := by
  rw [opCfbDec, h]

theorem opCfbDec_of_short (c : BlockCipher) (kb : Bytes) (kl : Nat) {p x : Bytes} (h : hexDecode p = .ok x)
    (hx : x.length < 16) : opCfbDec c kb kl p = .err .tooShort := by
  rw [opCfbDec, h]
  exact if_pos hx

theorem opCfbDec_of_envelope (c : BlockCipher) (kb : Bytes) (kl : Nat) {p iv body : Bytes}
    (h : hexDecode p = .ok (iv ++ body)) (hiv : iv.length = 16) :
    opCfbDec c kb kl p = .ok (cfbDecrypt c (normalize kb kl) iv body) := by
  have hlong : ¬(iv ++ body).length < 16 := by rw [List.length_append]; omega
  rw [opCfbDec, h]
  simp only [if_neg hlong, List.take_left' hiv, List.drop_left' hiv]

/-- Settles O37: CFB_DEC completes with what `opCfbDec` answers in each of R153's three cases. -/
theorem cfbDecOpensTheEnvelope : Obligations.CfbDecOpensTheEnvelope := by
  refine ⟨by decide, fun s p hin => ?_⟩
  obtain ⟨t, hexec, hdone, hdraw⟩ := cfbDec_completes hin
  refine ⟨fun herr => ⟨t, hexec, ?_, hdraw⟩, fun x hx hshort => ⟨t, hexec, ?_, hdraw⟩,
    fun iv body hx hiv => ⟨t, hexec, hdraw, ?_⟩⟩
  · rwa [opCfbDec_of_err _ _ _ herr] at hdone
  · rwa [opCfbDec_of_short _ _ _ hx hshort] at hdone
  · rwa [opCfbDec_of_envelope _ _ _ hx hiv] at hdone

/-! ### The round trip (R154) -/

theorem cfbEnc_completes {s : State} {p iv : Bytes} (hin : InputIs s p) (hiv : IvIs s iv) :
    ∃ t, exec .cfbEnc s = .next t ∧ Completes s t (opCfbEnc fips197 (keyBuf s) (keyLength s) p iv)
      ∧ t.ivDraw = if s.curIvsel then s.ivDraw else none :=
  checkedWithIv_completes hin hiv readsAll (fun t iv p => opCfbEnc fips197 (keyBuf t) (keyLength t) p iv) rfl

/-- R154, of the commands' functions. -/
theorem opCfbDec_opensOwnEnvelope {c : BlockCipher} {kb : Bytes} {kl : Nat}
    (henc : ∀ b : Bytes, b.length = 16 → (c.enc (normalize kb kl) b).length = 16) (p : Bytes) {iv : Bytes}
    (hiv : iv.length = 16) : opCfbDec c kb kl (hexEncode (iv ++ cfbEncrypt c (normalize kb kl) iv p)) = .ok p := by
  rw [opCfbDec_of_envelope c kb kl (hexDecode_hexEncode _) hiv, cfbDecrypt_cfbEncrypt_of_feedback henc p iv fun _ => hiv]

/-- The normalized key has a key's length, so its keystream blocks have 16 bytes. -/
theorem fips197_enc_normalize_length (kb : Bytes) (kl : Nat) (b : Bytes) (hb : b.length = 16) :
    (fips197.enc (normalize kb kl) b).length = 16 :=
  fips197_enc_length (by simp) hb

/-- Settles O38: both commands complete, and `opCfbDec_opensOwnEnvelope` says what the second writes. -/
theorem cfbRoundTrip : Obligations.CfbRoundTrip := by
  intro s p iv _ hin hiv _ hobuf
  have hiv16 := hiv.length_eq
  have henc := fips197_enc_normalize_length (keyBuf s) (keyLength s)
  have hlen := cfbEncrypt_length_of_feedback henc p iv fun _ => hiv16
  obtain ⟨t, hexec, hdone, -⟩ := cfbEnc_completes hin hiv
  refine ⟨t, _, hexec, completesOk_of_fits hdone ?_, take_hexEncode_append _ (by rw [hiv16]), ?_⟩
  · rw [hexEncode_length, List.length_append, hiv16, hlen]
    exact hobuf
  · intro u hinu hkey hkl hcfg
    obtain ⟨v, hexecu, hdoneu, -⟩ := cfbDec_completes hinu
    rw [hkey, keyLength, hkl, ← keyLength, opCfbDec_opensOwnEnvelope henc p hiv16] at hdoneu
    exact ⟨v, hexecu, completesOk_of_fits hdoneu (by rw [hcfg]; omega)⟩

end Sys2Proof.Machine
end

section
/-! PROOFS. The ECB family (spec/43_ecb.md). Both transforms map a function of 16-byte blocks over the blocks of a sequence,
so their laws are laws of that map; the commands' results go through the shim (spec/40_dispatch.md R106). -/

namespace Sys2Proof.Machine

/-! ### A function of blocks, mapped over a sequence of whole blocks -/

/-- What ECB does with a block function: each block on its own. -/
def mapBlocks (f : Bytes → Bytes) (d : Bytes) : Bytes := (blocksOf d).flatMap f

theorem ecbEncrypt_eq_mapBlocks (c : BlockCipher) (k d : Bytes) : ecbEncrypt c k d = mapBlocks (c.enc k) d := rfl

theorem ecbDecrypt_eq_mapBlocks (c : BlockCipher) (k d : Bytes) : ecbDecrypt c k d = mapBlocks (c.dec k) d := rfl

theorem isFirstBlock_of_length {x : Bytes} (hx : x.length = 16) (t : Bytes) : IsFirstBlock x t where
  nonempty := List.length_pos_iff.mp (by omega)
  atMost := hx.le
  whole _ := hx

theorem append_length_mod {x t : Bytes} (hx : x.length = 16) (ht : t.length % 16 = 0) : (x ++ t).length % 16 = 0 := by
  rw [List.length_append]
  omega

/-- Every sequence of a multiple of 16 bytes is built of whole blocks. -/
theorem wholeBlock_induction {motive : (d : Bytes) → d.length % 16 = 0 → Prop} (nil : motive [] rfl)
    (block : ∀ (x t : Bytes) (hx : x.length = 16) (ht : t.length % 16 = 0),
      motive t ht → motive (x ++ t) (append_length_mod hx ht))
    (d : Bytes) (hd : d.length % 16 = 0) : motive d hd := by
  induction d using block_induction with
  | nil => exact nil
  | block x t h ih =>
    have hx : x.length = 16 := by
      by_cases ht : t = []
      · have hpos := List.length_pos_iff.mpr h.nonempty
        have hle := h.atMost
        rw [ht, List.append_nil] at hd
        omega
      · exact h.whole ht
    have ht : t.length % 16 = 0 := by
      rw [List.length_append] at hd
      omega
    exact block x t hx ht (ih ht)

@[simp] theorem mapBlocks_nil (f : Bytes → Bytes) : mapBlocks f [] = [] := rfl

theorem mapBlocks_append (f : Bytes → Bytes) {x : Bytes} (hx : x.length = 16) (t : Bytes) :
    mapBlocks f (x ++ t) = f x ++ mapBlocks f t := by
  rw [mapBlocks, blocksOf_append (isFirstBlock_of_length hx t), List.flatMap_cons, ← mapBlocks]

section
variable {f : Bytes → Bytes} (hf : ∀ b : Bytes, b.length = 16 → (f b).length = 16)
include hf

theorem mapBlocks_length {d : Bytes} (hd : d.length % 16 = 0) : (mapBlocks f d).length = d.length := by
  induction d, hd using wholeBlock_induction with
  | nil => rfl
  | block x t hx ht ih => rw [mapBlocks_append f hx, List.length_append, List.length_append, hf x hx, hx, ih]

theorem mapBlocks_mapBlocks_of_leftInverse {g : Bytes → Bytes} (hgf : ∀ b : Bytes, b.length = 16 → g (f b) = b)
    {d : Bytes} (hd : d.length % 16 = 0) : mapBlocks g (mapBlocks f d) = d := by
  induction d, hd using wholeBlock_induction with
  | nil => rfl
  | block x t hx ht ih => rw [mapBlocks_append f hx, mapBlocks_append g (hf x hx), hgf x hx, ih]

/-- Block j of the result is `f` of block j. -/
theorem mapBlocks_block {d : Bytes} (hd : d.length % 16 = 0) {j : Nat} (hj : 16 * j < d.length) :
    ((mapBlocks f d).drop (16 * j)).take 16 = f ((d.drop (16 * j)).take 16) := by
  induction d, hd using wholeBlock_induction generalizing j with
  | nil => simp at hj
  | block x t hx ht ih =>
    rw [mapBlocks_append f hx]
    cases j with
    | zero => rw [Nat.mul_zero, List.drop_zero, List.drop_zero, List.take_left' (hf x hx), List.take_left' hx]
    | succ j =>
      rw [List.length_append] at hj
      rw [show 16 * (j + 1) = 16 + 16 * j by omega, ← List.drop_drop, ← List.drop_drop, List.drop_left' (hf x hx),
        List.drop_left' hx, ih (by omega)]

end

/-- Settles O39: the laws of `mapBlocks`, for the two block functions of a lawful cipher. -/
theorem ecbTransformsEachBlock : Obligations.EcbTransformsEachBlock := by
  intro c k d hlaw hk hd
  have henc : ∀ b : Bytes, b.length = 16 → (c.enc k b).length = 16 := fun b hb => (hlaw k b hk hb).1
  have hdec : ∀ b : Bytes, b.length = 16 → (c.dec k b).length = 16 := fun b hb => (hlaw k b hk hb).2.1
  have hinv : ∀ b : Bytes, b.length = 16 → c.dec k (c.enc k b) = b := fun b hb => (hlaw k b hk hb).2.2.1
  exact ⟨mapBlocks_length henc hd, mapBlocks_length hdec hd, mapBlocks_mapBlocks_of_leftInverse henc hinv hd,
    fun _ hj => ⟨mapBlocks_block henc hd hj, mapBlocks_block hdec hd hj⟩⟩

/-! ### The shim (R106) -/

@[simp] theorem collapse_ok (typed : Bool) (out : Bytes) : collapse typed (.ok out) = .ok out := rfl

@[simp] theorem collapse_typed (r : Result) : collapse true r = r := by
  cases r <;> rfl

theorem collapse_legacy_of_collapses {e : ErrorName} (h : e.collapses = true) : collapse false (.err e) = .ok [] :=
  if_pos h

/-! ### ECB_ENC (R172) -/

theorem ecbEnc_completes {s : State} {p : Bytes} (h : InputIs s p) (typed : Bool) :
    ∃ t, exec (.ecbEnc typed) s = .next t
      ∧ Completes s t (.ok (hexEncode (ecbEncrypt fips197 (normalize (keyBuf s) (keyLength s)) (pad p 16))))
      ∧ t.ivDraw = s.ivDraw :=
  checked_completes_of_inputIs h readsAll fun p => collapse typed (opEcbEnc fips197 (keyBuf s) (keyLength s) p)

/-- R172's OUT_LEN: two characters for each byte of the padded input, which is one block more than the whole blocks of P. -/
theorem hexEncode_ecbEncrypt_pad_length (kb : Bytes) (kl : Nat) (p : Bytes) :
    (hexEncode (ecbEncrypt fips197 (normalize kb kl) (pad p 16))).length = 32 * (p.length / 16 + 1) := by
  have hpad := pad_length p 16
  have hwhole : (pad p 16).length % 16 = 0 := by omega
  rw [hexEncode_length, ecbEncrypt_eq_mapBlocks, mapBlocks_length (fips197_enc_normalize_length kb kl) hwhole]
  omega

/-- Settles O40: ECB_ENC has no error of its own, so either entry point completes with the same text. -/
theorem ecbEncEncryptsThePaddedInput : Obligations.EcbEncEncryptsThePaddedInput := by
  refine ⟨by decide, by decide, fun s p typed hin => ?_⟩
  obtain ⟨t, hexec, hdone, hdraw⟩ := ecbEnc_completes hin typed
  exact ⟨t, _, hexec, hdone, hdraw, rfl, hexEncode_ecbEncrypt_pad_length _ _ p⟩

/-! ### ECB_DEC (R173) -/

theorem ecbDec_completes {s : State} {p : Bytes} (h : InputIs s p) (typed : Bool) :
    ∃ t, exec (.ecbDec typed) s = .next t
      ∧ Completes s t (collapse typed (opEcbDec fips197 (keyBuf s) (keyLength s) p)) ∧ t.ivDraw = s.ivDraw :=
  checked_completes_of_inputIs h readsHex fun p => collapse typed (opEcbDec fips197 (keyBuf s) (keyLength s) p)

section
variable (c : BlockCipher) (kb : Bytes) (kl : Nat) {p : Bytes}

theorem opEcbDec_of_err {e : ErrorName} (h : hexDecode p = .err e) : opEcbDec c kb kl p = .err e := by
  rw [opEcbDec, h]

theorem opEcbDec_of_empty (h : hexDecode p = .ok []) : opEcbDec c kb kl p = .err .emptyInput := by
  rw [opEcbDec, h]
  rfl

theorem opEcbDec_of_partial {x : Bytes} (h : hexDecode p = .ok x) (hx : x.length % 16 ≠ 0) :
    opEcbDec c kb kl p = .err .notBlockMultiple := by
  have hne : ¬x.length = 0 := by omega
  rw [opEcbDec, h]
  simp only [if_neg hne, if_pos hx]

theorem opEcbDec_of_blocks {x : Bytes} (h : hexDecode p = .ok x) (hne : x ≠ []) (hx : x.length % 16 = 0) :
    opEcbDec c kb kl p = .ok (unpadLenient (ecbDecrypt c (normalize kb kl) x)) := by
  have hlen : ¬x.length = 0 := mt List.length_eq_zero_iff.mp hne
  rw [opEcbDec, h]
  simp only [if_neg hlen, if_neg (not_not_intro hx)]

end

/-- A failure of the transform: reported by the typed entry point, the empty output from the legacy one. -/
theorem ecbDec_reports_or_collapses {s : State} {p : Bytes} (hin : InputIs s p) {e : ErrorName} (he : e.collapses = true)
    (herr : opEcbDec fips197 (keyBuf s) (keyLength s) p = .err e) :
    (∃ t, exec (.ecbDec true) s = .next t ∧ CompletesErr s t e ∧ t.ivDraw = s.ivDraw)
      ∧ ∃ t, exec (.ecbDec false) s = .next t ∧ CompletesOk s t [] ∧ t.ivDraw = s.ivDraw := by
  obtain ⟨t, hexec, hdone, hdraw⟩ := ecbDec_completes hin true
  obtain ⟨u, hexecu, hdoneu, hdrawu⟩ := ecbDec_completes hin false
  rw [herr, collapse_typed] at hdone
  rw [herr, collapse_legacy_of_collapses he] at hdoneu
  exact ⟨⟨t, hexec, hdone, hdraw⟩, u, hexecu, completesOk_of_fits hdoneu (Nat.zero_le _), hdrawu⟩

/-- Settles O41: each of R173's three errors is one the shim collapses, and whole blocks give an Ok result, which it leaves
alone. -/
theorem ecbDecReportsOrCollapses : Obligations.EcbDecReportsOrCollapses := by
  refine ⟨by decide, by decide, fun s p hin => ⟨fun e hcase => ?_, fun x typed hx hne hwhole => ?_⟩⟩
  · rcases hcase with ⟨hbad, rfl⟩ | ⟨hempty, rfl⟩ | ⟨x, hx, hpart, rfl⟩
    · exact ecbDec_reports_or_collapses hin rfl (opEcbDec_of_err _ _ _ hbad)
    · exact ecbDec_reports_or_collapses hin rfl (opEcbDec_of_empty _ _ _ hempty)
    · exact ecbDec_reports_or_collapses hin rfl (opEcbDec_of_partial _ _ _ hx hpart)
  · obtain ⟨t, hexec, hdone, hdraw⟩ := ecbDec_completes hin typed
    rw [opEcbDec_of_blocks _ _ _ hx hne hwhole, collapse_ok] at hdone
    exact ⟨t, hexec, hdraw, hdone⟩

end Sys2Proof.Machine
end

section
/-! PROOFS. The CTR transform (spec/44_ctr.md). The counter blocks are the big-endian sequences of consecutive integers, so the
keystream is known byte by byte; the exclusive-or with it has the same keystream both ways, as both lengths are the same. -/

namespace Sys2Proof.Machine

/-! ### Big-endian sequences (R7) -/

@[simp] theorem beBytes_length (n v : Nat) : (beBytes n v).length = n := by
  induction n generalizing v with
  | zero => rfl
  | succ n ih => rw [beBytes, List.length_append, ih, List.length_singleton]

theorem uintBe_append_singleton (s : Bytes) (b : Byte) : uintBe (s ++ [b]) = uintBe s * 256 + b.toNat := by
  simp [uintBe]

theorem uintBe_beBytes (n v : Nat) : uintBe (beBytes n v) = v % 256 ^ n := by
  induction n generalizing v with
  | zero => rw [pow_zero, Nat.mod_one]; rfl
  | succ n ih =>
    have hdigits : v % 256 ^ (n + 1) = v / 256 % 256 ^ n * 256 + v % 2 ^ 8 := by
      rw [pow_succ' 256 n, Nat.mod_mul]
      omega
    rw [beBytes, uintBe_append_singleton, ih, BitVec.toNat_ofNat, hdigits]

theorem beBytes_uintBe (s : Bytes) : beBytes s.length (uintBe s) = s := by
  induction s using List.reverseRecOn with
  | nil => rfl
  | append_singleton s b ih =>
    have hb : b.toNat < 256 := b.isLt
    have hrest : (uintBe s * 256 + b.toNat) / 256 = uintBe s := by omega
    have hlast : BitVec.ofNat 8 (uintBe s * 256 + b.toNat) = b := by
      apply BitVec.eq_of_toNat_eq
      rw [BitVec.toNat_ofNat]
      omega
    rw [List.length_append, List.length_singleton, uintBe_append_singleton, beBytes, hrest, hlast, ih]

/-- Only the residue of the integer counts. -/
theorem beBytes_mod (n v : Nat) : beBytes n (v % 256 ^ n) = beBytes n v := by
  simpa [uintBe_beBytes] using beBytes_uintBe (beBytes n v)

/-! ### The counter and the keystream (R191, R192) -/

theorem nextCounter_length (t : Bytes) : (nextCounter t).length = 16 := beBytes_length 16 _

/-- The counter counts, and the wrap of R191 is the sequence's own. -/
theorem nextCounter_beBytes (v : Nat) : nextCounter (beBytes 16 v) = beBytes 16 (v + 1) := by
  rw [nextCounter, uintBe_beBytes, ← beBytes_mod, Nat.mod_add_mod, beBytes_mod]

theorem ctrKeystream_succ_beBytes (c : BlockCipher) (k : Bytes) (m v : Nat) :
    ctrKeystream c k (m + 1) (beBytes 16 v) = c.enc k (beBytes 16 v) ++ ctrKeystream c k m (beBytes 16 (v + 1)) := by
  rw [ctrKeystream, nextCounter_beBytes]

section
variable {c : BlockCipher} {k : Bytes} (henc : ∀ b : Bytes, b.length = 16 → (c.enc k b).length = 16)
include henc

theorem ctrKeystream_length (m : Nat) {t : Bytes} (ht : t.length = 16) : (ctrKeystream c k m t).length = 16 * m := by
  induction m generalizing t with
  | zero => rfl
  | succ m ih =>
    rw [ctrKeystream, List.length_append, henc t ht, ih (nextCounter_length t)]
    omega

/-- Block j of the keystream is AES_Enc of the counter block j further on. -/
theorem ctrKeystream_getD {m j i : Nat} (v : Nat) (hj : j < m) (hi : i < 16) :
    (ctrKeystream c k m (beBytes 16 v)).getD (16 * j + i) 0 = (c.enc k (beBytes 16 (v + j))).getD i 0 := by
  induction m generalizing j v with
  | zero => exact absurd hj (Nat.not_lt_zero j)
  | succ m ih =>
    have hblock := henc (beBytes 16 v) (beBytes_length 16 v)
    rw [ctrKeystream_succ_beBytes]
    cases j with
    | zero => rw [Nat.mul_zero, Nat.zero_add, List.getD_append _ _ _ _ (by omega), Nat.add_zero]
    | succ j =>
      have hidx : 16 * (j + 1) + i - 16 = 16 * j + i := by omega
      rw [List.getD_append_right _ _ _ _ (by omega), hblock, hidx, ih (v + 1) (by omega), Nat.add_right_comm, Nat.add_assoc]

/-- R192's ceil(len(D) / 16) blocks cover D. -/
theorem length_le_ctrKeystream (d : Bytes) {iv : Bytes} (hiv : iv.length = 16) :
    d.length ≤ (ctrKeystream c k ((d.length + 15) / 16) iv).length := by
  rw [ctrKeystream_length henc _ hiv]
  omega

theorem ctrXcrypt_length (d : Bytes) {iv : Bytes} (hiv : iv.length = 16) : (ctrXcrypt c k iv d).length = d.length :=
  xorPrefix_length (length_le_ctrKeystream henc d hiv)

theorem ctrXcrypt_ctrXcrypt (d : Bytes) {iv : Bytes} (hiv : iv.length = 16) : ctrXcrypt c k iv (ctrXcrypt c k iv d) = d := by
  rw [ctrXcrypt, ctrXcrypt_length henc d hiv]
  exact xorPrefix_xorPrefix (length_le_ctrKeystream henc d hiv)

theorem ctrXcrypt_getD {d iv : Bytes} {j i : Nat} (hiv : iv.length = 16) (hi : i < 16) (hlt : 16 * j + i < d.length) :
    (ctrXcrypt c k iv d).getD (16 * j + i) 0
      = d.getD (16 * j + i) 0 ^^^ (c.enc k (beBytes 16 (uintBe iv + j))).getD i 0 := by
  have hle := length_le_ctrKeystream henc d hiv
  have hstart : beBytes 16 (uintBe iv) = iv := hiv ▸ beBytes_uintBe iv
  have hj : j < (d.length + 15) / 16 := by omega
  rw [ctrXcrypt, xorPrefix_getD hlt (by omega), ← ctrKeystream_getD henc (uintBe iv) hj hi, hstart]

end

/-- Settles O43: the length and the involution are those of the exclusive-or, and `ctrXcrypt_getD` says the bytes, with the
counter reduced modulo 2^128, which its 16 bytes do not show. -/
theorem ctrCountsBigEndianBlocks : Obligations.CtrCountsBigEndianBlocks := by
  intro c k iv d hlaw hk hiv
  have henc : ∀ b : Bytes, b.length = 16 → (c.enc k b).length = 16 := fun b hb => (hlaw k b hk hb).1
  refine ⟨ctrXcrypt_length henc d hiv, ctrXcrypt_ctrXcrypt henc d hiv, fun j i hi hlt => ?_⟩
  have hwrap : beBytes 16 ((uintBe iv + j) % 2 ^ 128) = beBytes 16 (uintBe iv + j) := beBytes_mod 16 _
  rw [ctrXcrypt_getD henc hiv hi hlt, hwrap]

end Sys2Proof.Machine
end

section
/-! PROOFS. The hex commands and laws (spec/45_codecs.md R212, R213, R216, R220): what encoding writes at each place, and that a
text of lowercase digits is the encoding of what it decodes to. -/

namespace Sys2Proof.Machine

/-! ### HEX_ENC (R216) -/

theorem hexEnc_completes {s : State} {p : Bytes} (h : InputIs s p) :
    ∃ t, exec .hexEnc s = .next t ∧ Completes s t (.ok (hexEncode p)) ∧ t.ivDraw = s.ivDraw :=
  checked_completes_of_inputIs h readsAll opHexEnc

theorem hexEncode_getD {d : Bytes} {j : Nat} (hj : j < d.length) :
    (hexEncode d).getD (2 * j) 0 = hexDigit ((d.getD j 0).toNat / 16)
      ∧ (hexEncode d).getD (2 * j + 1) 0 = hexDigit ((d.getD j 0).toNat % 16) := by
  induction d generalizing j with
  | nil => exact absurd hj (Nat.not_lt_zero j)
  | cons b d ih =>
    cases j with
    | zero => exact ⟨rfl, rfl⟩
    | succ j => exact ih (Nat.lt_of_succ_lt_succ hj)

/-- Settles O49: HEX_ENC completes with the encoding, and `hexEncode_getD` says its characters. -/
theorem hexEncWritesTwoDigitsPerByte : Obligations.HexEncWritesTwoDigitsPerByte := by
  refine ⟨by decide, fun s p hin => ?_⟩
  obtain ⟨t, hexec, hdone, hdraw⟩ := hexEnc_completes hin
  exact ⟨t, _, hexec, hdone, hdraw, hexEncode_length p, fun _ hj => hexEncode_getD hj⟩

/-! ### The laws of hex (R220) -/

/-- The lowercase form of a digit A to F; any other byte is its own. -/
def hexLower (c : Byte) : Byte := if 0x41 ≤ c.toNat ∧ c.toNat ≤ 0x46 then c + 0x20 else c

theorem hexVal_hexLower (c : Byte) : hexVal (hexLower c) = hexVal c := by
  by_cases hupper : 0x41 ≤ c.toNat ∧ c.toNat ≤ 0x46
  · have hlower : (c + 0x20).toNat = c.toNat + 0x20 := by exact BitVec.toNat_add_of_lt (by simp; omega)
    rw [hexLower, if_pos hupper, hexVal, hexVal, hlower, if_neg (by omega), if_pos (by omega), if_neg (by omega),
      if_neg (by omega), if_pos hupper]
    exact congrArg some (by omega)
  · rw [hexLower, if_neg hupper]

theorem hexPairs_map_hexLower : ∀ t : Bytes, hexPairs (t.map hexLower) = hexPairs t
  | [] => rfl
  | [_] => rfl
  | hi :: lo :: t => by
    rw [List.map_cons, List.map_cons, hexPairs, hexPairs, hexVal_hexLower, hexVal_hexLower, hexPairs_map_hexLower t]

theorem hexDecode_map_hexLower (t : Bytes) : hexDecode (t.map hexLower) = hexDecode t := by
  rw [hexDecode, hexDecode, List.length_map, hexPairs_map_hexLower]

theorem hexDigit_mem {v : Nat} (hv : v < 16) : hexDigit v ∈ hexAlphabet :=
  (by decide : ∀ w : Fin 16, hexDigit w ∈ hexAlphabet) ⟨v, hv⟩

theorem mem_hexAlphabet_of_mem_hexEncode {d : Bytes} {c : Byte} (hc : c ∈ hexEncode d) : c ∈ hexAlphabet := by
  obtain ⟨b, -, hb⟩ := List.mem_flatMap.mp hc
  have := b.isLt
  rcases List.mem_pair.mp hb with rfl | rfl
  · exact hexDigit_mem (by omega)
  · exact hexDigit_mem (by omega)

/-- A lowercase digit is the digit of its value. -/
theorem hexDigit_of_hexVal {c : Byte} {v : Nat} (hc : c ∈ hexAlphabet) (hv : hexVal c = some v) : v < 16 ∧ hexDigit v = c := by
  have hall : ∀ x ∈ hexAlphabet, (hexVal x).getD 16 < 16 ∧ hexDigit ((hexVal x).getD 16) = x := by decide
  simpa [hv] using hall c hc

theorem hexPairs_cons_cons_eq_some {hi lo : Byte} {t d : Bytes} (h : hexPairs (hi :: lo :: t) = some d) :
    ∃ x y r, hexVal hi = some x ∧ hexVal lo = some y ∧ hexPairs t = some r ∧ d = BitVec.ofNat 8 (16 * x + y) :: r := by
  rw [hexPairs] at h
  split at h
  · next x y r hx hy hr => exact ⟨x, y, r, hx, hy, hr, (Option.some.inj h).symm⟩
  · cases h

theorem eq_hexEncode_of_hexPairs :
    ∀ {t d : Bytes}, (∀ c ∈ t, c ∈ hexAlphabet) → hexPairs t = some d → t = hexEncode d
  | [], d, _, h => by cases h; rfl
  | [_], d, _, h => by cases h
  | hi :: lo :: t, d, hlower, h => by
    obtain ⟨x, y, r, hx, hy, hr, rfl⟩ := hexPairs_cons_cons_eq_some h
    simp only [List.forall_mem_cons] at hlower
    obtain ⟨hhi, hlo, ht⟩ := hlower
    obtain ⟨hx16, rfl⟩ := hexDigit_of_hexVal hhi hx
    obtain ⟨hy16, rfl⟩ := hexDigit_of_hexVal hlo hy
    have hbyte : (BitVec.ofNat 8 (16 * x + y)).toNat = 16 * x + y := by rw [BitVec.toNat_ofNat]; omega
    have hdiv : (16 * x + y) / 16 = x := by omega
    have hmod : (16 * x + y) % 16 = y := by omega
    rw [hexEncode_cons, hbyte, hdiv, hmod, ← eq_hexEncode_of_hexPairs ht hr]

theorem hexDecode_eq_ok {t d : Bytes} (h : hexDecode t = .ok d) : hexPairs t = some d := by
  unfold hexDecode at h
  split at h
  · cases h
  · split at h
    · next hpairs => rw [hpairs, Result.ok.inj h]
    · cases h

end Sys2Proof.Machine
end

section
/-! PROOFS. Base64 encoding (spec/45_codecs.md R214): what is written at each place, and the text of one group by the integer of
its bytes. -/

namespace Sys2Proof.Machine

/-! ### The integer of a few bytes (R7) -/

theorem uintBe_one (a : Byte) : uintBe [a] = a.toNat := by simp [uintBe]

theorem uintBe_two (a b : Byte) : uintBe [a, b] = a.toNat * 256 + b.toNat := by simp [uintBe]

theorem uintBe_three (a b c : Byte) : uintBe [a, b, c] = a.toNat * 65536 + b.toNat * 256 + c.toNat := by
  simp only [uintBe, List.foldl_cons, List.foldl_nil]
  omega

theorem uintBe_lt (s : Bytes) : uintBe s < 256 ^ s.length := by
  have hpos : 0 < 256 ^ s.length := by positivity
  rw [← beBytes_uintBe s, uintBe_beBytes, beBytes_length]
  exact Nat.mod_lt _ hpos

theorem beBytes_eq_iff {n v : Nat} (hv : v < 256 ^ n) {s : Bytes} : beBytes n v = s ↔ s.length = n ∧ v = uintBe s := by
  constructor
  · rintro rfl
    exact ⟨beBytes_length n v, by rw [uintBe_beBytes, Nat.mod_eq_of_lt hv]⟩
  · rintro ⟨rfl, rfl⟩
    exact beBytes_uintBe s

/-! ### Encoding (R214) -/

theorem b64Encode_length (d : Bytes) : (b64Encode d).length = 4 * ((d.length + 2) / 3) := by
  induction d using b64Encode.induct with
  | case1 => rfl
  | case2 | case3 => simp [b64Encode]
  | case4 a b c t ih =>
    simp only [b64Encode, List.length_append, List.length_cons, List.length_nil, ih]
    omega

/-- R214 character by character. -/
theorem b64Encode_getD {d : Bytes} {g i : Nat} (hi : i < 4) (hg : 3 * g < d.length) :
    (b64Encode d).getD (4 * g + i) 0 = if i ≤ d.length - 3 * g then
      b64Digit (((d.getD (3 * g) 0).toNat * 65536 + (d.getD (3 * g + 1) 0).toNat * 256
        + (d.getD (3 * g + 2) 0).toNat) / 64 ^ (3 - i) % 64) else b64Pad := by
  induction d using b64Encode.induct generalizing g with
  | case1 => exact absurd hg (Nat.not_lt_zero _)
  | case2 a =>
    obtain rfl : g = 0 := by rw [List.length_singleton] at hg; omega
    interval_cases i <;> simp [b64Encode]
  | case3 a b =>
    obtain rfl : g = 0 := by simp only [List.length_cons, List.length_nil] at hg; omega
    interval_cases i <;> simp [b64Encode, uintBe_two, Nat.add_mul, Nat.mul_assoc]
  | case4 a b c t ih =>
    cases g with
    | zero => interval_cases i <;> simp [b64Encode, uintBe_three]
    | succ g =>
      have htext : 4 * (g + 1) + i = 4 * g + i + 1 + 1 + 1 + 1 := by omega
      simp only [List.length_cons] at hg
      have hlen : (a :: b :: c :: t).length - 3 * (g + 1) = t.length - 3 * g := by simp only [List.length_cons]; omega
      rw [hlen, htext]
      exact ih (by omega)

theorem b64Encode_append {g : Bytes} (hg : g.length = 3) (t : Bytes) :
    b64Encode (g ++ t) = b64Encode g ++ b64Encode t := by
  obtain ⟨a, b, c, rfl⟩ := List.length_eq_three.mp hg
  simp [b64Encode]

/-! One group's text: the base-64 digits of its integer, shifted where bits are missing, each by dividing by 64 once more. -/

theorem b64Encode_one (a : Byte) : b64Encode [a]
    = [b64Digit (uintBe [a] * 16 / 64 % 64), b64Digit (uintBe [a] * 16 % 64), b64Pad, b64Pad] := by
  have hfirst : a.toNat * 65536 / 262144 = a.toNat * 16 / 64 := by omega
  have hsecond : a.toNat * 65536 / 4096 = a.toNat * 16 := by omega
  rw [b64Encode, uintBe_one, hfirst, hsecond]

theorem b64Encode_two (a b : Byte) : b64Encode [a, b]
    = [b64Digit (uintBe [a, b] * 4 / 64 / 64 % 64), b64Digit (uintBe [a, b] * 4 / 64 % 64),
      b64Digit (uintBe [a, b] * 4 % 64), b64Pad] := by
  have hfirst : uintBe [a, b] * 256 / 262144 = uintBe [a, b] * 4 / 64 / 64 := by omega
  have hsecond : uintBe [a, b] * 256 / 4096 = uintBe [a, b] * 4 / 64 := by omega
  have hthird : uintBe [a, b] * 256 / 64 = uintBe [a, b] * 4 := by omega
  rw [b64Encode, hfirst, hsecond, hthird]

theorem b64Encode_three (a b c : Byte) : b64Encode [a, b, c]
    = [b64Digit (uintBe [a, b, c] / 64 / 64 / 64 % 64), b64Digit (uintBe [a, b, c] / 64 / 64 % 64),
      b64Digit (uintBe [a, b, c] / 64 % 64), b64Digit (uintBe [a, b, c] % 64)] := by
  simp [b64Encode, Nat.div_div_eq_div_mul]

/-- Every character is a digit or '='. -/
theorem forall_mem_b64Encode {P : Byte → Prop} (hdigit : ∀ v < 64, P (b64Digit v)) (hpad : P b64Pad) (d : Bytes) :
    ∀ c ∈ b64Encode d, P c := by
  have hmod : ∀ v, P (b64Digit (v % 64)) := fun v => hdigit _ (Nat.mod_lt v (by decide))
  induction d using b64Encode.induct with
  | case1 => exact List.forall_mem_nil P
  | case2 | case3 =>
    simp only [b64Encode, List.forall_mem_cons, hmod, hpad, true_and]
    exact List.forall_mem_nil P
  | case4 a b c t ih =>
    simp only [b64Encode, List.cons_append, List.nil_append, List.forall_mem_cons, hmod, true_and]
    exact ih

end Sys2Proof.Machine
end

section
/-! PROOFS. Base64 decoding (spec/45_codecs.md R215). Each form of a quantum is taken apart from its last digit; a text decodes to
`d` exactly when it represents `d`, that is, when it agrees with the canonical text of `d` at every place. -/

namespace Sys2Proof.Machine

/-! ### Digits and their values (R215) -/

theorem indexFrom_eq_some {c : Byte} {xs : Bytes} {i v : Nat} (h : indexFrom c i xs = some v) :
    i ≤ v ∧ v < i + xs.length ∧ xs.getD (v - i) 0 = c := by
  induction xs generalizing i with
  | nil => cases h
  | cons x xs ih =>
    rw [indexFrom] at h
    split at h
    · next hx =>
      obtain rfl := Option.some.inj h
      exact ⟨le_rfl, by simp, by simpa using hx⟩
    · obtain ⟨hle, hlt, hget⟩ := ih h
      have hpos : v - i = v - (i + 1) + 1 := by omega
      rw [hpos, List.length_cons]
      exact ⟨by omega, by omega, hget⟩

theorem b64Val_b64Digit {v : Nat} (hv : v < 64) : b64Val (b64Digit v) = some v :=
  (by decide : ∀ w : Fin 64, b64Val (b64Digit w) = some w.val) ⟨v, hv⟩

theorem b64Val_eq_some_iff {c : Byte} {v : Nat} : b64Val c = some v ↔ v < 64 ∧ b64Digit v = c := by
  constructor
  · intro h
    obtain ⟨-, hlt, hget⟩ := indexFrom_eq_some h
    exact ⟨by simpa [b64Alphabet] using hlt, hget⟩
  · rintro ⟨hv, rfl⟩
    exact b64Val_b64Digit hv

theorem b64Digit_ne_pad {v : Nat} (hv : v < 64) : b64Digit v ≠ b64Pad :=
  (by decide : ∀ w : Fin 64, b64Digit w ≠ b64Pad) ⟨v, hv⟩

theorem b64Sum_cons (acc : Nat) (c : Byte) (cs : Bytes) :
    b64Sum acc (c :: cs) = (b64Val c).bind fun v => b64Sum (acc * 64 + v) cs := by
  rw [b64Sum]
  cases b64Val c <;> rfl

/-- The sum of digits determines them: the last is its residue, and the quotient is the sum of the others. -/
theorem b64Sum_append_singleton_eq_some_iff {acc v : Nat} {l : Bytes} {c : Byte} :
    b64Sum acc (l ++ [c]) = some v ↔ b64Sum acc l = some (v / 64) ∧ c = b64Digit (v % 64) := by
  induction l generalizing acc with
  | nil =>
    simp only [List.nil_append, b64Sum_cons, b64Sum, Option.bind_eq_some_iff, b64Val_eq_some_iff, Option.some.injEq]
    constructor
    · rintro ⟨w, ⟨hw, rfl⟩, rfl⟩
      exact ⟨by omega, congrArg b64Digit (by omega)⟩
    · rintro ⟨hacc, rfl⟩
      exact ⟨v % 64, ⟨Nat.mod_lt v (by decide), rfl⟩, by omega⟩
  | cons x l ih =>
    simp only [List.cons_append, b64Sum_cons, Option.bind_eq_some_iff, ih]
    tauto

/-! ### One quantum (R215) -/

theorem b64Sum_lt {l : Bytes} {v : Nat} (h : b64Sum 0 l = some v) : v < 64 ^ l.length := by
  induction l using List.reverseRecOn generalizing v with
  | nil => obtain rfl := Option.some.inj h; decide
  | append_singleton l c ih =>
    have hlt := ih (b64Sum_append_singleton_eq_some_iff.mp h).1
    rw [List.length_append, List.length_singleton, Nat.pow_succ]
    omega

theorem b64Sum_one {a : Byte} {v : Nat} : b64Sum 0 [a] = some v ↔ v < 64 ∧ a = b64Digit (v % 64) := by
  rw [← List.nil_append [a], b64Sum_append_singleton_eq_some_iff, b64Sum, Option.some.injEq, eq_comm (a := 0),
    Nat.div_eq_zero_iff_lt (by decide)]

theorem b64Sum_two {a b : Byte} {v : Nat} :
    b64Sum 0 [a, b] = some v ↔ v < 4096 ∧ a = b64Digit (v / 64 % 64) ∧ b = b64Digit (v % 64) := by
  change b64Sum 0 ([a] ++ [b]) = some v ↔ _
  rw [b64Sum_append_singleton_eq_some_iff, b64Sum_one, Nat.div_lt_iff_lt_mul (by decide), and_assoc]

theorem b64Sum_four {a b c e : Byte} {v : Nat} :
    b64Sum 0 [a, b, c, e] = some v ↔ v < 16777216 ∧ a = b64Digit (v / 64 / 64 / 64 % 64)
      ∧ b = b64Digit (v / 64 / 64 % 64) ∧ c = b64Digit (v / 64 % 64) ∧ e = b64Digit (v % 64) := by
  change b64Sum 0 ([a, b] ++ [c] ++ [e]) = some v ↔ _
  rw [b64Sum_append_singleton_eq_some_iff, b64Sum_append_singleton_eq_some_iff, b64Sum_two,
    Nat.div_lt_iff_lt_mul (by decide), Nat.div_lt_iff_lt_mul (by decide)]
  simp only [and_assoc]

/-- Two digits that differ in their lowest bits alone, of which there are `m` values. -/
def B64Alike (m : Nat) (c e : Byte) : Prop := ∃ v w, b64Val c = some v ∧ b64Val e = some w ∧ v / m = w / m

/-- `c` is taken for the canonical digit `e`, whose lowest bits are unused: strictly they must be zero, as in `e`. -/
def B64Accepts (strict : Bool) (m : Nat) (c e : Byte) : Prop := c = e ∨ strict = false ∧ B64Alike m c e

/-- The used bits of a sum are those of the digits before the last, and the upper bits of the last. -/
theorem div_unused_eq_iff {m u v : Nat} (hm : m = 16 ∨ m = 4) :
    v / m = u ↔ v / 64 = u * m / 64 ∧ v % 64 / m = u * m % 64 / m := by
  rcases hm with rfl | rfl <;> omega

/-- A quantum whose last digit has unused bits gives the integer `u`. -/
theorem b64Sum_unused_iff {strict : Bool} {m u : Nat} {l : Bytes} {c : Byte} (hm : m = 16 ∨ m = 4) :
    (∃ v, b64Sum 0 (l ++ [c]) = some v ∧ ¬(strict = true ∧ v % m ≠ 0) ∧ v / m = u)
      ↔ b64Sum 0 l = some (u * m / 64) ∧ B64Accepts strict m c (b64Digit (u * m % 64)) := by
  have hdigit : b64Val (b64Digit (u * m % 64)) = some (u * m % 64) := b64Val_b64Digit (Nat.mod_lt _ (by decide))
  simp only [b64Sum_append_singleton_eq_some_iff]
  constructor
  · rintro ⟨v, ⟨hl, rfl⟩, hstrict, hu⟩
    obtain ⟨hrest, hlast⟩ := (div_unused_eq_iff hm).mp hu
    refine ⟨hrest ▸ hl, ?_⟩
    cases strict with
    | true =>
      have hv : u * m = v := hu ▸ Nat.div_mul_cancel (Nat.dvd_of_mod_eq_zero (by simpa using hstrict))
      exact .inl (by rw [hv])
    | false => exact .inr ⟨rfl, _, _, b64Val_b64Digit (Nat.mod_lt _ (by decide)), hdigit, hlast⟩
  · rintro ⟨hl, rfl | ⟨rfl, v, w, hv, hw, hvw⟩⟩
    · have hpos : 0 < m := by omega
      exact ⟨u * m, ⟨hl, rfl⟩, by simp, Nat.mul_div_cancel u hpos⟩
    · obtain ⟨hlt, rfl⟩ := b64Val_eq_some_iff.mp hv
      obtain rfl := Option.some.inj (hw.symm.trans hdigit)
      have hrest : (u * m / 64 * 64 + v) / 64 = u * m / 64 := by omega
      have hlast : (u * m / 64 * 64 + v) % 64 = v := by omega
      exact ⟨u * m / 64 * 64 + v, ⟨by rw [hrest, hl], by rw [hlast]⟩, by simp,
        (div_unused_eq_iff hm).mpr ⟨hrest, by rw [hlast, hvw]⟩⟩

/-- The same, with `u` written out as the bytes `g`. -/
theorem beBytes_b64Sum_unused_iff {strict : Bool} {m n : Nat} {l g : Bytes} {c : Byte} (hm : m = 16 ∨ m = 4)
    (hbits : 64 ^ (l ++ [c]).length = m * 256 ^ n) :
    (∃ v, b64Sum 0 (l ++ [c]) = some v ∧ ¬(strict = true ∧ v % m ≠ 0) ∧ beBytes n (v / m) = g)
      ↔ g.length = n ∧ b64Sum 0 l = some (uintBe g * m / 64) ∧ B64Accepts strict m c (b64Digit (uintBe g * m % 64)) := by
  have hbytes : ∀ {v}, b64Sum 0 (l ++ [c]) = some v → (beBytes n (v / m) = g ↔ g.length = n ∧ v / m = uintBe g) :=
    fun hv => beBytes_eq_iff (Nat.div_lt_of_lt_mul (hbits ▸ b64Sum_lt hv))
  rw [← b64Sum_unused_iff hm]
  constructor
  · rintro ⟨v, hv, hs, hg⟩
    obtain ⟨hlen, hu⟩ := (hbytes hv).mp hg
    exact ⟨hlen, v, hv, hs, hu⟩
  · rintro ⟨hlen, v, hv, hs, hu⟩
    exact ⟨v, hv, hs, (hbytes hv).mpr ⟨hlen, hu⟩⟩

/-- A quantum has one of three forms: two, three or four digits. -/
theorem b64Quantum_eq_some_iff {strict last : Bool} {a b c e : Byte} {g : Bytes} :
    b64Quantum strict last a b c e = some g ↔
      (last = true ∧ (∃ v, b64Sum 0 [a, b] = some v ∧ ¬(strict = true ∧ v % 16 ≠ 0) ∧ beBytes 1 (v / 16) = g)
        ∧ c = b64Pad ∧ e = b64Pad)
      ∨ (last = true ∧ (∃ v, b64Sum 0 [a, b, c] = some v ∧ ¬(strict = true ∧ v % 4 ≠ 0) ∧ beBytes 2 (v / 4) = g)
        ∧ e = b64Pad)
      ∨ ∃ v, b64Sum 0 [a, b, c, e] = some v ∧ beBytes 3 v = g := by
  have hmod : ∀ v, b64Digit (v % 64) ≠ b64Pad := fun v => b64Digit_ne_pad (Nat.mod_lt v (by decide))
  constructor
  · intro h
    unfold b64Quantum at h
    split at h
    · next hpads =>
      obtain ⟨hlast, hc, he⟩ := hpads
      split at h
      · next v hv =>
        rw [Option.ite_none_left_eq_some, Option.some.injEq] at h
        exact .inl ⟨hlast, ⟨v, hv, h⟩, hc, he⟩
      · cases h
    · split at h
      · next hpad =>
        obtain ⟨hlast, he⟩ := hpad
        split at h
        · next v hv =>
          rw [Option.ite_none_left_eq_some, Option.some.injEq] at h
          exact .inr (.inl ⟨hlast, ⟨v, hv, h⟩, he⟩)
        · cases h
      · split at h
        · next v hv => exact .inr (.inr ⟨v, hv, Option.some.inj h⟩)
        · cases h
  · rintro (⟨rfl, ⟨v, hv, hs, rfl⟩, rfl, rfl⟩ | ⟨rfl, ⟨v, hv, hs, rfl⟩, rfl⟩ | ⟨v, hv, rfl⟩)
    · simp only [b64Quantum, hv, hs, if_true, if_false, and_self]
    · have hc : c ≠ b64Pad := (b64Sum_append_singleton_eq_some_iff (l := [a, b]).mp hv).2 ▸ hmod _
      simp only [b64Quantum, hc, hv, hs, if_true, if_false, and_self, false_and, and_false]
    · have he : e ≠ b64Pad := (b64Sum_append_singleton_eq_some_iff (l := [a, b, c]).mp hv).2 ▸ hmod _
      simp only [b64Quantum, he, hv, if_false, and_false]

/-- The three forms, by the bytes that they give. -/
theorem b64Quantum_eq_some_iff_bytes {strict last : Bool} {a b c e : Byte} {g : Bytes} :
    b64Quantum strict last a b c e = some g ↔
      (last = true ∧ (g.length = 1 ∧ b64Sum 0 [a] = some (uintBe g * 16 / 64)
        ∧ B64Accepts strict 16 b (b64Digit (uintBe g * 16 % 64))) ∧ c = b64Pad ∧ e = b64Pad)
      ∨ (last = true ∧ (g.length = 2 ∧ b64Sum 0 [a, b] = some (uintBe g * 4 / 64)
        ∧ B64Accepts strict 4 c (b64Digit (uintBe g * 4 % 64))) ∧ e = b64Pad)
      ∨ (g.length = 3 ∧ b64Sum 0 [a, b, c, e] = some (uintBe g)) := by
  have hone := beBytes_b64Sum_unused_iff (strict := strict) (n := 1) (l := [a]) (g := g) (c := b) (.inl rfl) (by simp)
  have htwo := beBytes_b64Sum_unused_iff (strict := strict) (n := 2) (l := [a, b]) (g := g) (c := c) (.inr rfl) (by simp)
  have hthree : (∃ v, b64Sum 0 [a, b, c, e] = some v ∧ beBytes 3 v = g)
      ↔ g.length = 3 ∧ b64Sum 0 [a, b, c, e] = some (uintBe g) := by
    constructor
    · rintro ⟨v, hv, hg⟩
      obtain ⟨hlen, rfl⟩ := (beBytes_eq_iff (by simpa using b64Sum_lt hv)).mp hg
      exact ⟨hlen, hv⟩
    · rintro ⟨hlen, hv⟩
      exact ⟨_, hv, hlen ▸ beBytes_uintBe g⟩
  rw [List.singleton_append] at hone
  rw [List.cons_append, List.singleton_append] at htwo
  rw [b64Quantum_eq_some_iff, hone, htwo, hthree]

theorem b64Quantum_length {strict last : Bool} {a b c e : Byte} {g : Bytes}
    (h : b64Quantum strict last a b c e = some g) : g ≠ [] ∧ g.length ≤ 3 ∧ (g.length = 3 ∨ last = true) := by
  rw [← List.length_pos_iff]
  rcases b64Quantum_eq_some_iff_bytes.mp h with ⟨hlast, ⟨hlen, -⟩, -⟩ | ⟨hlast, ⟨hlen, -⟩, -⟩ | ⟨hlen, -⟩
  · exact ⟨by omega, by omega, .inr hlast⟩
  · exact ⟨by omega, by omega, .inr hlast⟩
  · exact ⟨by omega, by omega, .inl hlen⟩

theorem b64Quantum_eq_some_one {strict last : Bool} {a b c e x : Byte} :
    b64Quantum strict last a b c e = some [x] ↔ last = true ∧ a = b64Digit (uintBe [x] * 16 / 64 % 64)
      ∧ B64Accepts strict 16 b (b64Digit (uintBe [x] * 16 % 64)) ∧ c = b64Pad ∧ e = b64Pad := by
  have hlt : uintBe [x] < 256 := by simpa using uintBe_lt [x]
  have hsix : uintBe [x] * 16 / 64 < 64 := by omega
  simp [b64Quantum_eq_some_iff_bytes, b64Sum_one, hsix, and_assoc]

theorem b64Quantum_eq_some_two {strict last : Bool} {a b c e x y : Byte} :
    b64Quantum strict last a b c e = some [x, y] ↔ last = true ∧ a = b64Digit (uintBe [x, y] * 4 / 64 / 64 % 64)
      ∧ b = b64Digit (uintBe [x, y] * 4 / 64 % 64) ∧ B64Accepts strict 4 c (b64Digit (uintBe [x, y] * 4 % 64))
      ∧ e = b64Pad := by
  have hlt : uintBe [x, y] < 65536 := by simpa using uintBe_lt [x, y]
  have htwelve : uintBe [x, y] * 4 / 64 < 4096 := by omega
  simp [b64Quantum_eq_some_iff_bytes, b64Sum_two, htwelve, and_assoc]

theorem b64Quantum_eq_some_three {strict last : Bool} {a b c e x y z : Byte} :
    b64Quantum strict last a b c e = some [x, y, z] ↔ [a, b, c, e] = b64Encode [x, y, z] := by
  have hlt : uintBe [x, y, z] < 16777216 := by simpa using uintBe_lt [x, y, z]
  simp [b64Quantum_eq_some_iff_bytes, b64Sum_four, b64Encode_three, hlt]

/-! ### The quanta (R215) -/

theorem b64Quanta_cons_eq_some_iff {strict : Bool} {a b c e : Byte} {t d : Bytes} :
    b64Quanta strict (a :: b :: c :: e :: t) = some d
      ↔ ∃ g r, b64Quantum strict t.isEmpty a b c e = some g ∧ b64Quanta strict t = some r ∧ g ++ r = d := by
  constructor
  · intro h
    rw [b64Quanta] at h
    split at h
    · next g r hg hr => exact ⟨g, r, hg, hr, Option.some.inj h⟩
    · cases h
  · rintro ⟨g, r, hg, hr, rfl⟩
    rw [b64Quanta, hg, hr]

/-- Fewer than three bytes come of one quantum alone. -/
theorem b64Quanta_cons_eq_some_short {strict : Bool} {a b c e : Byte} {t d : Bytes} (hd : d.length < 3) :
    b64Quanta strict (a :: b :: c :: e :: t) = some d ↔ t = [] ∧ b64Quantum strict true a b c e = some d := by
  rw [b64Quanta_cons_eq_some_iff]
  constructor
  · rintro ⟨g, r, hg, hr, rfl⟩
    obtain ⟨-, -, hlen | hlast⟩ := b64Quantum_length hg
    · rw [List.length_append] at hd
      omega
    · obtain rfl := List.isEmpty_iff.mp hlast
      obtain rfl := Option.some.inj hr
      exact ⟨rfl, by rwa [List.append_nil]⟩
  · rintro ⟨rfl, hq⟩
    exact ⟨d, [], hq, rfl, List.append_nil d⟩

/-- The first three bytes come of the first quantum. -/
theorem b64Quanta_cons_eq_some_three {strict : Bool} {a b c e x y z : Byte} {t d : Bytes} :
    b64Quanta strict (a :: b :: c :: e :: t) = some (x :: y :: z :: d)
      ↔ [a, b, c, e] = b64Encode [x, y, z] ∧ b64Quanta strict t = some d := by
  rw [b64Quanta_cons_eq_some_iff, ← b64Quantum_eq_some_three (strict := strict) (last := t.isEmpty)]
  constructor
  · rintro ⟨g, r, hg, hr, happ⟩
    have hlen : g.length = [x, y, z].length := by
      obtain ⟨-, hle, hlen | hlast⟩ := b64Quantum_length hg
      · exact hlen
      · obtain rfl := List.isEmpty_iff.mp hlast
        obtain rfl := Option.some.inj hr
        rw [List.append_nil] at happ
        simp only [happ, List.length_cons, List.length_nil] at hle ⊢
        omega
    obtain ⟨rfl, rfl⟩ := List.append_inj (t₁ := r) (t₂ := d) happ hlen
    exact ⟨hg, hr⟩
  · rintro ⟨hg, hr⟩
    exact ⟨_, _, hg, hr, rfl⟩

/-! ### Texts and the bytes they represent (R215) -/

/-- Place `j` of the text `x` of `d` is that of the last digit of a short group. -/
def AtShortDigit (d x : Bytes) (j : Nat) : Prop := d.length % 3 ≠ 0 ∧ j + 4 = x.length + d.length % 3

/-- The values of the bits that are unused in a short group's last digit. -/
def b64Unused (d : Bytes) : Nat := if d.length % 3 = 1 then 16 else 4

/-- At place `j` the text `x` agrees with the canonical text of `d`, but for unused bits where the decoder is lenient. -/
def B64Agrees (strict : Bool) (d x : Bytes) (j : Nat) : Prop :=
  x.getD j 0 = (b64Encode d).getD j 0
    ∨ strict = false ∧ AtShortDigit d x j ∧ B64Alike (b64Unused d) (x.getD j 0) ((b64Encode d).getD j 0)

/-- The text `x` agrees with the canonical text of `d` at every place. -/
def B64Represents (strict : Bool) (x d : Bytes) : Prop :=
  x.length = 4 * ((d.length + 2) / 3) ∧ ∀ j, j < x.length → B64Agrees strict d x j

theorem B64Represents.length_mod {strict : Bool} {x d : Bytes} (h : B64Represents strict x d) : x.length % 4 = 0 := by
  rw [h.1, Nat.mul_mod_right]

theorem b64Represents_b64Encode (strict : Bool) (d : Bytes) : B64Represents strict (b64Encode d) d :=
  ⟨b64Encode_length d, fun _ _ => .inl rfl⟩

theorem b64Agrees_of_atShortDigit {strict : Bool} {d x : Bytes} {j : Nat} (h : AtShortDigit d x j) :
    B64Agrees strict d x j ↔ B64Accepts strict (b64Unused d) (x.getD j 0) ((b64Encode d).getD j 0) := by
  simp only [B64Agrees, h, true_and, B64Accepts]

theorem b64Agrees_of_not_atShortDigit {strict : Bool} {d x : Bytes} {j : Nat} (h : ¬AtShortDigit d x j) :
    B64Agrees strict d x j ↔ x.getD j 0 = (b64Encode d).getD j 0 := by
  simp only [B64Agrees, h, false_and, and_false, or_false]

theorem forall_lt_length_cons_four {P : Nat → Prop} {a b c e : Byte} {t : Bytes} :
    (∀ j, j < (a :: b :: c :: e :: t).length → P j)
      ↔ P 0 ∧ P 1 ∧ P 2 ∧ P 3 ∧ ∀ j, j < t.length → P (j + 4) := by
  simp only [List.length_cons, Nat.forall_lt_succ_left, Nat.zero_add, Nat.add_assoc, Nat.reduceAdd]

theorem b64Represents_nil {strict : Bool} {x : Bytes} : B64Represents strict x [] ↔ x = [] := by
  constructor
  · rintro ⟨hlen, -⟩
    exact List.length_eq_zero_iff.mp hlen
  · rintro rfl
    exact ⟨rfl, fun j hj => absurd hj (Nat.not_lt_zero j)⟩

section
variable {strict : Bool} {a b c e : Byte} {t : Bytes}

theorem b64Represents_one {x : Byte} :
    B64Represents strict (a :: b :: c :: e :: t) [x]
      ↔ t = [] ∧ b64Quantum strict true a b c e = some [x] := by
  by_cases ht : t = []
  · subst ht
    have hplace : ∀ j, AtShortDigit [x] [a, b, c, e] j ↔ j = 1 := by simp [AtShortDigit]
    rw [B64Represents, forall_lt_length_cons_four, b64Agrees_of_atShortDigit ((hplace 1).mpr rfl)]
    simp [b64Agrees_of_not_atShortDigit, hplace, b64Encode_one, b64Unused, b64Quantum_eq_some_one]
  · simp [B64Represents, ht]

theorem b64Represents_two {x y : Byte} :
    B64Represents strict (a :: b :: c :: e :: t) [x, y]
      ↔ t = [] ∧ b64Quantum strict true a b c e = some [x, y] := by
  by_cases ht : t = []
  · subst ht
    have hplace : ∀ j, AtShortDigit [x, y] [a, b, c, e] j ↔ j = 2 := by simp [AtShortDigit]
    rw [B64Represents, forall_lt_length_cons_four, b64Agrees_of_atShortDigit ((hplace 2).mpr rfl)]
    simp [b64Agrees_of_not_atShortDigit, hplace, b64Encode_two, b64Unused, b64Quantum_eq_some_two]
  · simp [B64Represents, ht]

theorem atShortDigit_succ {x y z : Byte} {d : Bytes} {j : Nat} :
    AtShortDigit (x :: y :: z :: d) (a :: b :: c :: e :: t) (j + 4) ↔ AtShortDigit d t j := by
  simp only [AtShortDigit, List.length_cons]
  omega

theorem b64Agrees_succ {x y z : Byte} {d : Bytes} {j : Nat} :
    B64Agrees strict (x :: y :: z :: d) (a :: b :: c :: e :: t) (j + 4) ↔ B64Agrees strict d t j := by
  have hunused : b64Unused (x :: y :: z :: d) = b64Unused d := by
    simp only [b64Unused, List.length_cons, Nat.add_assoc, Nat.reduceAdd, Nat.add_mod_right]
  rw [B64Agrees, atShortDigit_succ, hunused]
  rfl

theorem b64Represents_three {x y z : Byte} {d : Bytes} :
    B64Represents strict (a :: b :: c :: e :: t) (x :: y :: z :: d)
      ↔ [a, b, c, e] = b64Encode [x, y, z] ∧ B64Represents strict t d := by
  have hlen : (a :: b :: c :: e :: t).length = 4 * (((x :: y :: z :: d).length + 2) / 3)
      ↔ t.length = 4 * ((d.length + 2) / 3) := by
    simp only [List.length_cons]
    omega
  rw [B64Represents, forall_lt_length_cons_four, hlen]
  by_cases ht : t.length = 4 * ((d.length + 2) / 3)
  · have hplace : ∀ j < 4, ¬AtShortDigit (x :: y :: z :: d) (a :: b :: c :: e :: t) j := by
      intro j hj
      simp only [AtShortDigit, List.length_cons]
      omega
    have hencode := b64Encode_append (g := [x, y, z]) rfl d
    rw [List.cons_append, List.cons_append, List.singleton_append] at hencode
    simp [b64Agrees_of_not_atShortDigit, hplace, b64Agrees_succ, hencode, b64Encode_three, B64Represents, ht, and_assoc]
  · simp only [ht, B64Represents, false_and, and_false]

end

/-- R215: the quanta of a text give `d` exactly when it represents `d`. -/
theorem b64Quanta_eq_some_iff {strict : Bool} : ∀ {x d : Bytes}, b64Quanta strict x = some d ↔ B64Represents strict x d
  | [], d => by
    have hempty : 0 = 4 * ((d.length + 2) / 3) ↔ d.length = 0 := by omega
    rw [B64Represents, List.length_nil, hempty, List.length_eq_zero_iff]
    simp [b64Quanta, eq_comm]
  | [_], _ | [_, _], _ | [_, _, _], _ => iff_of_false nofun fun h => absurd h.length_mod (by simp)
  | a :: b :: c :: e :: t, [] => by
    rw [b64Represents_nil, b64Quanta_cons_eq_some_short (by decide)]
    exact iff_of_false (fun h => (b64Quantum_length h.2).1 rfl) (List.cons_ne_nil _ _)
  | a :: b :: c :: e :: t, [x] => by rw [b64Represents_one, b64Quanta_cons_eq_some_short (by simp)]
  | a :: b :: c :: e :: t, [x, y] => by rw [b64Represents_two, b64Quanta_cons_eq_some_short (by simp)]
  | a :: b :: c :: e :: t, x :: y :: z :: d => by
    rw [b64Represents_three, b64Quanta_cons_eq_some_three, b64Quanta_eq_some_iff]

/-! ### Decoding (R215) -/

theorem b64Decode_eq_ok_iff {q : Params} {x d : Bytes} :
    b64Decode q x = .ok d ↔ B64Represents q.b64Strict (b64Text q.b64SkipCrlf x) d := by
  rw [← b64Quanta_eq_some_iff]
  constructor
  · intro h
    unfold b64Decode at h
    split at h
    · cases h
    · split at h
      · next hquanta => rw [hquanta, Result.ok.inj h]
      · cases h
  · intro h
    have hwhole : ¬(b64Text q.b64SkipCrlf x).length % 4 ≠ 0 := not_not_intro (b64Quanta_eq_some_iff.mp h).length_mod
    rw [b64Decode, if_neg hwhole, h]

theorem b64Decode_cases (q : Params) (x : Bytes) :
    b64Decode q x = .err .decodeError ∨ ∃ out, b64Decode q x = .ok out := by
  unfold b64Decode
  split
  · exact .inl rfl
  · split
    · exact .inr ⟨_, rfl⟩
    · exact .inl rfl

@[simp] theorem b64Text_false (x : Bytes) : b64Text false x = x := rfl

theorem b64Decode_of_skip {q : Params} (hskip : q.b64SkipCrlf = true) (x : Bytes) :
    b64Decode q x = b64Decode { q with b64SkipCrlf := false } (x.filter fun c => c ≠ 0x0d ∧ c ≠ 0x0a) := by
  have htext : b64Text true x = x.filter fun c => c ≠ 0x0d ∧ c ≠ 0x0a := by
    simp only [b64Text, if_true, Bool.decide_and]
  rw [b64Decode, b64Decode, hskip, htext, b64Text_false]

theorem b64Represents_true_iff {x d : Bytes} : B64Represents true x d ↔ x = b64Encode d := by
  constructor
  · rintro ⟨hlen, hagrees⟩
    refine List.ext_getElem (by rw [hlen, b64Encode_length]) fun j hj hj' => ?_
    rcases hagrees j hj with heq | ⟨hstrict, -⟩
    · rwa [List.getD_eq_getElem _ _ hj, List.getD_eq_getElem _ _ hj'] at heq
    · cases hstrict
  · rintro rfl
    exact b64Represents_b64Encode true d

theorem b64Decode_strict_eq_ok_iff {q : Params} (hskip : q.b64SkipCrlf = false) (hstrict : q.b64Strict = true)
    {x d : Bytes} : b64Decode q x = .ok d ↔ x = b64Encode d := by
  rw [b64Decode_eq_ok_iff, hskip, hstrict, b64Text_false, b64Represents_true_iff]

/-- Encoding writes no line breaks. -/
theorem b64Text_b64Encode (skip : Bool) (d : Bytes) : b64Text skip (b64Encode d) = b64Encode d := by
  cases skip with
  | false => rfl
  | true =>
    have hdigit : ∀ v : Fin 64, b64Digit v ≠ 0x0d ∧ b64Digit v ≠ 0x0a := by decide
    have hchar := forall_mem_b64Encode (P := fun c => c ≠ 0x0d ∧ c ≠ 0x0a) (fun v hv => hdigit ⟨v, hv⟩) (by decide) d
    simpa [b64Text] using hchar

theorem b64Decode_b64Encode (q : Params) (d : Bytes) : b64Decode q (b64Encode d) = .ok d := by
  rw [b64Decode_eq_ok_iff, b64Text_b64Encode]
  exact b64Represents_b64Encode q.b64Strict d

end Sys2Proof.Machine
end

section
/-! PROOFS. The codec commands and the laws of both codecs (spec/45_codecs.md R218, R219, R220). -/

namespace Sys2Proof.Machine

theorem b64Enc_completes {s : State} {p : Bytes} (h : InputIs s p) :
    ∃ t, exec .b64Enc s = .next t ∧ Completes s t (.ok (b64Encode p)) ∧ t.ivDraw = s.ivDraw :=
  checked_completes_of_inputIs h readsAll opB64Enc

theorem b64Dec_completes {s : State} {p : Bytes} (h : InputIs s p) :
    ∃ t, exec .b64Dec s = .next t ∧ Completes s t (b64Decode s.cfg p) ∧ t.ivDraw = s.ivDraw :=
  checked_completes_of_inputIs h (readsB64 s.cfg) (opB64Dec s.cfg)

/-- Settles O51: B64_ENC completes with the encoding, and `b64Encode_getD` says its characters. -/
theorem b64EncWritesFourDigitsPerThreeBytes : Obligations.B64EncWritesFourDigitsPerThreeBytes := by
  refine ⟨by decide, fun s p hin => ?_⟩
  obtain ⟨t, hexec, hdone, hdraw⟩ := b64Enc_completes hin
  exact ⟨t, _, hexec, hdone, hdraw, b64Encode_length p, fun _ _ hi hg => b64Encode_getD hi hg⟩

/-- Settles O52: B64_DEC completes with what `b64Decode` gives, which is `d` exactly for the texts that represent `d`. -/
theorem b64DecDecodesOrReports : Obligations.B64DecDecodesOrReports := by
  refine ⟨by decide, fun s p hin => ?_, fun q x hskip => b64Decode_of_skip hskip x,
    fun q x d hskip hstrict => b64Decode_strict_eq_ok_iff hskip hstrict, fun q x d hskip hstrict => ?_⟩
  · obtain ⟨t, hexec, hdone, hdraw⟩ := b64Dec_completes hin
    refine ⟨t, hexec, hdraw, hdone, b64Decode_cases s.cfg p, ?_⟩
    rintro rfl
    rw [← b64Encode, b64Decode_b64Encode] at hdone
    exact completesOk_of_fits hdone (Nat.zero_le _)
  · rw [b64Decode_eq_ok_iff, hskip, hstrict, b64Text_false]
    simp only [B64Represents, B64Agrees, AtShortDigit, B64Alike, b64Unused, true_and, and_assoc]

/-- Settles O53: both decoders take back what the encoders wrote, and what they accept of canonical text is the encoding of
what they give. -/
theorem codecLaws : Obligations.CodecLaws :=
  ⟨hexDecode_hexEncode, b64Decode_b64Encode, fun t => (hexDecode_map_hexLower t).symm,
    fun _ _ hdec hlower => eq_hexEncode_of_hexPairs hlower (hexDecode_eq_ok hdec),
    fun _ _ => mem_hexAlphabet_of_mem_hexEncode,
    fun _ _ _ hstrict hskip => (b64Decode_strict_eq_ok_iff hskip hstrict).mp⟩

end Sys2Proof.Machine
end

section
/-! PROOFS. The interrupt output (spec/60_exceptions.md R244): the level CTRL.IRQ_EN AND STATUS.DONE, so each step moves irq by
what it does to those two bits. -/

namespace Sys2Proof.Machine

theorem irq_eq_false_of_not_done {t : State} (h : statusDone t.status = false) : t.irq = false := by
  rw [State.irq, h, Bool.and_false]

theorem irq_eq_false_of_not_enabled {t : State} (h : ctrlIrqEn t.ctrl = false) : t.irq = false := by
  rw [State.irq, h, Bool.false_and]

/-! ### Completion raises it -/

/-- Ok or error, a completion sets DONE (R107). -/
@[simp] theorem statusDone_finish (s : State) (r : Result) : statusDone (finish s r).status = true := by
  rcases finish_cases s r with ⟨_, -, -, hfin⟩ | ⟨_, -, -, hfin⟩ | ⟨_, -, hfin⟩ <;> simp [hfin]

theorem finish_irq (s : State) (r : Result) : (finish s r).irq = ctrlIrqEn s.ctrl := by
  rw [State.irq, finish_ctrl, statusDone_finish, Bool.and_true]

/-- A step of the controller that leaves BUSY is a completion: the wait for a draw stays BUSY. -/
theorem Answer.irq_of_idle {s t : State} (h : Answer s (.next t)) (hbusy : s.phase = .busy) (hidle : t.phase = .idle) :
    t.irq = ctrlIrqEn s.ctrl := by
  cases h with
  | waits => rw [hbusy] at hidle; cases hidle
  | finishes r => exact finish_irq s r
  | finishesWithDraw r => exact finish_irq (s.setIvDraw none) r

theorem controllerTurn_irq {s t : State} (hbusy : s.phase = .busy) (hturn : controllerTurn s = .next t)
    (hidle : t.phase = .idle) : t.irq = ctrlIrqEn s.ctrl := by
  rcases controllerTurn_answer s with ⟨hphase, -⟩ | ⟨-, hanswer⟩
  · rw [hbusy] at hphase; cases hphase
  · exact (hturn ▸ hanswer).irq_of_idle hbusy hidle

/-! ### The register writes and the reset that lower it -/

/-- R26: the whole next state of a write to STATUS, in either phase. -/
theorem hostWrite_status (s : State) (v : Word) :
    hostWrite s 0x000C .word v = .next (s.setStatus (statusAfterWrite s.status v)) :=
  hostWrite_register v (by decide) (by decide)

/-- R24: the whole next state of a write to CTRL, in either phase. -/
theorem hostWrite_ctrl (s : State) (v : Word) : hostWrite s 0x0004 .word v = .next (s.setCtrl (ctrlStored v)) :=
  hostWrite_register v (by decide) (by decide)

theorem resetStep_irq (s : State) : (resetStep s).irq = false := by
  rw [State.irq, resetStep_ctrl, resetStep_status]
  decide

/-- Settles O24: a completion sets DONE and keeps CTRL; an acknowledge, an accept and a reset clear DONE, and a write to CTRL
stores IRQ_EN. -/
theorem irqFollowsDoneAndEnable : Obligations.IrqFollowsDoneAndEnable := by
  refine ⟨fun _ => rfl, fun s t hbusy hsched hstep hidle => ?complete, fun s rest v hsched hack => ?acknowledge,
    fun s rest w hidle hsched => ?accept, fun s rest v hsched hoff => ?disable, fun s rest hsched => ?reset⟩
  case complete =>
    rcases hsched with hnil | ⟨rest, hcons⟩
    · exact controllerTurn_irq hbusy ((step_nil hnil).symm.trans hstep) hidle
    · exact controllerTurn_irq (s := s.setSchedule rest) hbusy ((step_cons hcons).symm.trans hstep) hidle
  case acknowledge =>
    refine ⟨_, (step_cons hsched).trans (hostWrite_status _ v), irq_eq_false_of_not_done ?_⟩
    simp [hack]
  case accept =>
    exact ⟨_, (step_cons hsched).trans (hostWrite_cmd_of_idle (s := s.setSchedule rest) hidle w),
      irq_eq_false_of_not_done (statusDone_statusAccepted s.status)⟩
  case disable =>
    exact ⟨_, (step_cons hsched).trans (hostWrite_ctrl _ v),
      irq_eq_false_of_not_enabled ((ctrlIrqEn_stored v).trans hoff)⟩
  case reset => exact ⟨_, step_cons hsched, resetStep_irq _⟩

end Sys2Proof.Machine
end

section
/-! PROOFS. Reset (spec/70_reset_and_hazards.md R270): a reset step's next state is R270's table, and the state after power-on is
its own reset. -/

namespace Sys2Proof.Machine

/-! ### What an address that nothing lists reads as -/

/-- KEYBUF and IVBUF are adjacent (R60), and an unlisted byte of either is 0x00. -/
theorem unlisted_keyOrIvBuf {a : Nat} (hlo : 0x0100 ≤ a) (hhi : a < 0x0130) : Memory.unlisted a = some 0x00 :=
  if_pos ⟨hlo, hhi⟩

theorem unlisted_ibuf (j : Nat) : Memory.unlisted (ibufBase + j) = none := by
  refine if_neg ?_
  unfold ibufBase keybufBase ivbufBase ivbufSize
  omega

/-! ### The constant registers (R23, R30, R31) -/

theorem readRegister_id (s : State) : readRegister s 0x0000 = idWord := rfl
theorem readRegister_ibufSize (s : State) : readRegister s 0x001C = BitVec.ofNat 32 s.cfg.ibufSize := rfl
theorem readRegister_obufSize (s : State) : readRegister s 0x0020 = BitVec.ofNat 32 s.cfg.obufSize := rfl

/-! ### The reset step -/

/-- After a reset every byte of the window reads as one that was never written. -/
theorem byteAt_resetStep (s : State) (a : Nat) : (resetStep s).byteAt a = Memory.unlisted a := by
  rw [byteAt_def, resetStep_mem, Memory.read_nil]

/-- R270's table, whatever the state before: IDLE or BUSY, with any parameters. -/
theorem afterReset_resetStep (s : State) : AfterReset (resetStep s) where
  phase := resetStep_phase s
  registers := ⟨resetStep_ctrl s, resetStep_cmd s, resetStep_status s, resetStep_keyLen s, resetStep_inLen s,
    resetStep_outLen s⟩
  keybuf j hj := (byteAt_resetStep s _).trans (unlisted_keyOrIvBuf (by omega) (by omega))
  ivbuf j hj := (byteAt_resetStep s _).trans (unlisted_keyOrIvBuf (by omega) (by omega))
  ibuf j _ := (byteAt_resetStep s _).trans (unlisted_ibuf j)
  obuf j _ := (byteAt_resetStep s _).trans (unlisted_obuf j)
  curIvsel := resetStep_curIvsel s
  irq := resetStep_irq s
  constants := ⟨readRegister_id _, readRegister_ibufSize _, readRegister_obufSize _⟩

/-- The state after power-on is what a reset leaves of it. -/
theorem resetStep_reset : resetStep State.reset = State.reset := rfl

/-- Settles O10: in either phase a scheduled reset steps to `resetStep`, which is R270's table, and power-on is its own reset. -/
theorem resetSetsEveryRegister : Obligations.ResetSetsEveryRegister :=
  ⟨fun s rest hsched => ⟨resetStep (s.setSchedule rest), step_cons hsched, resetStep_cfg _, resetStep_schedule _,
    afterReset_resetStep _⟩, resetStep_reset ▸ afterReset_resetStep State.reset⟩

end Sys2Proof.Machine
end

section
/-! PROOFS. One word, one meaning (spec/30_encoding.md R80 to R84): the decoder reads a command from a word exactly when that
command is well-formed and the word is its encoding. -/

namespace Sys2Proof.Laws

/-- A word is the encoding of its fields, when RSVD is zero (R80). -/
theorem encodeFields_eq_iff {typed : Bool} {blksz op : BitVec 8} {w : Word} :
    encodeFields typed blksz op = w
      ↔ fieldOp w = op ∧ fieldBlksz w = blksz ∧ fieldTyped w = typed ∧ fieldRsvd w = 0 := by
  obtain ⟨hop, hrsvd, hblksz, htyped⟩ := encodeFields_fields typed blksz op
  rw [word_eq_iff_fields, hop, hrsvd, hblksz, htyped]
  simp only [eq_comm]

/-- An 8-bit field holds the number that it is the field of. -/
theorem eq_toNat_iff {b : Nat} {x : BitVec 8} : b = x.toNat ↔ b ≤ 255 ∧ x = BitVec.ofNat 8 b := by
  constructor
  · rintro rfl
    exact ⟨by have := x.isLt; omega, by simp⟩
  · rintro ⟨hb, rfl⟩
    rw [BitVec.toNat_ofNat]
    omega

/-- R82 and R83: decoding inverts encoding on the well-formed commands, and answers on no other word. -/
theorem decode_eq_ok_iff_encode {w : Word} {i : Instr} :
    decode w = .ok i ↔ i.wellFormed = true ∧ encode i = w := by
  rw [decode_eq_ok_iff, hasWord_rowOf_iff]
  cases i with
  | pad b =>
    rw [pad_mem_commands, eq_toNat_iff, encode, encodeFields_eq_iff, Instr.wellFormed]
    simp only [otherBitsZero, decide_eq_true_eq, bitsAboveBlksz_eq_zero_iff]
    tauto
  | ecbEnc t =>
    rw [ecbEnc_mem_commands, encode, encodeFields_eq_iff, Instr.wellFormed]
    simp only [otherBitsZero, decide_eq_true_eq, eq_comm (a := t)]
    tauto
  | ecbDec t =>
    rw [ecbDec_mem_commands, encode, encodeFields_eq_iff, Instr.wellFormed]
    simp only [otherBitsZero, decide_eq_true_eq, eq_comm (a := t)]
    tauto
  | keynorm | unpadS | unpadL | cfbEnc | cfbDec | ctrEnc | ctrDec | hexEnc | hexDec | b64Enc | b64Dec =>
    rw [encode, encodeFields_eq_iff, Instr.wellFormed]
    simp only [otherBitsZero, decide_eq_true_eq, bitsAboveOp_eq_zero_iff]
    simp [commandsWithFieldsOf]

/-- Settles O1: the words of R82's table by evaluation. -/
theorem encodingTableWordsDecode : Obligations.EncodingTableWordsDecode := by
  unfold Obligations.EncodingTableWordsDecode
  decide

/-- Settles O2: the encoding of a well-formed command is a word of that command. -/
theorem decodeOfEncodeIsIdentity : Obligations.DecodeOfEncodeIsIdentity :=
  fun _ hwf => decode_eq_ok_iff_encode.mpr ⟨hwf, rfl⟩

/-- Settles O3: a legal word is the encoding of the one command it decodes to. -/
theorem encodeOfDecodeIsIdentity : Obligations.EncodeOfDecodeIsIdentity :=
  fun _ _ hdec => (decode_eq_ok_iff_encode.mp hdec).symm

end Sys2Proof.Laws
end

section
/-! PROOFS. The law of the FIPS-197 cipher (spec/45_codecs.md R210): each of the rounds' operations has an inverse on blocks of
16 bytes, and the inverse cipher undoes them from the last to the first. -/

namespace Sys2Proof.Machine

/-! ### Inverse functions on blocks -/

/-- `f` and `g` take blocks of 16 bytes to such blocks, and each takes back what the other did. -/
def BlockInverse (f g : Bytes → Bytes) : Prop :=
  ∀ b : Bytes, b.length = 16 → (f b).length = 16 ∧ (g b).length = 16 ∧ g (f b) = b ∧ f (g b) = b

theorem BlockInverse.id : BlockInverse id id := fun _ hb => ⟨hb, hb, rfl, rfl⟩

/-- First `f` then `h` is undone by first the inverse of `h`, then that of `f`. -/
theorem BlockInverse.andThen {f g h i : Bytes → Bytes} (hf : BlockInverse f g) (hh : BlockInverse h i) :
    BlockInverse (fun b => h (f b)) (fun b => g (i b)) := by
  intro b hb
  obtain ⟨hfb, -, hgf, -⟩ := hf b hb
  obtain ⟨-, hib, -, hhi⟩ := hh b hb
  obtain ⟨hhfb, -, hihf, -⟩ := hh (f b) hfb
  obtain ⟨-, hgib, -, hfgi⟩ := hf (i b) hib
  exact ⟨hhfb, hgib, (congrArg g hihf).trans hgf, (congrArg h hfgi).trans hhi⟩

/-! ### AddRoundKey -/

theorem addRoundKey_inverse {rk : Bytes} (hrk : rk.length = 16) :
    BlockInverse (fun b => xorBytes b rk) (fun b => xorBytes b rk) := by
  intro b hb
  have hlen := xorBytes_length hb hrk
  have hback : xorBytes (xorBytes b rk) rk = b := xorPrefix_xorPrefix (by omega)
  exact ⟨hlen, hlen, hback, hback⟩

/-! ### SubBytes -/

theorem invSbox_sbox : ∀ b : Byte, invSbox (sbox b) = b := by decide

theorem sbox_invSbox : ∀ b : Byte, sbox (invSbox b) = b := by decide

theorem subBytes_inverse : BlockInverse subBytes invSubBytes := by
  intro b hb
  simp [subBytes, invSubBytes, Function.comp_def, invSbox_sbox, sbox_invSbox, hb]

/-! ### ShiftRows -/

/-- Two gatherings of bytes, the second of which puts each byte back in its place. -/
theorem gather_gather {idx idx' : List Nat} {b : Bytes} (hlt : ∀ j ∈ idx', j < idx.length)
    (hback : idx'.map (fun j => idx.getD j 0) = List.range b.length) :
    idx'.map (fun j => (idx.map fun i => b.getD i 0).getD j 0) = b := by
  have hget : ∀ j ∈ idx', (idx.map fun i => b.getD i 0).getD j 0 = b.getD (idx.getD j 0) 0 := fun j hj => by
    simp [hlt j hj]
  calc idx'.map (fun j => (idx.map fun i => b.getD i 0).getD j 0)
      = (idx'.map fun j => idx.getD j 0).map fun i => b.getD i 0 := by
        rw [List.map_map]
        exact List.map_congr_left hget
    _ = b := by
        rw [hback]
        exact List.ext_getElem (by simp) fun i _ hi => by simp [hi]

theorem shiftRows_inverse : BlockInverse shiftRows invShiftRows := by
  intro b hb
  exact ⟨rfl, rfl, gather_gather (by decide) (by rw [hb]; decide), gather_gather (by decide) (by rw [hb]; decide)⟩

/-! ### MixColumns -/

/-- A function of bytes that takes exclusive-or to exclusive-or. -/
def XorLinear (f : Byte → Byte) : Prop := ∀ a b, f (a ^^^ b) = f a ^^^ f b

theorem xorLinear_id : XorLinear id := fun _ _ => rfl

theorem xorLinear_xtime : XorLinear xtime := by
  intro a b
  unfold xtime
  rw [BitVec.getLsbD_xor, BitVec.shiftLeft_xor_distrib]
  cases a.getLsbD 7 <;> cases b.getLsbD 7
  · rfl
  · exact BitVec.xor_assoc _ _ _
  · simp only [Bool.xor_false, if_true, Bool.false_eq_true, if_false]
    ac_rfl
  · have hcancel : (a <<< 1 ^^^ 0x1b) ^^^ (b <<< 1 ^^^ 0x1b) = (a <<< 1 ^^^ b <<< 1) ^^^ (0x1b#8 ^^^ 0x1b#8) := by ac_rfl
    simpa using hcancel.symm

theorem XorLinear.comp {f g : Byte → Byte} (hf : XorLinear f) (hg : XorLinear g) : XorLinear fun b => f (g b) :=
  fun a b => (congrArg f (hg a b)).trans (hf _ _)

theorem XorLinear.add {f g : Byte → Byte} (hf : XorLinear f) (hg : XorLinear g) : XorLinear fun b => f b ^^^ g b := by
  intro a b
  change f (a ^^^ b) ^^^ g (a ^^^ b) = (f a ^^^ g a) ^^^ (f b ^^^ g b)
  rw [hf, hg]
  ac_rfl

theorem xorLinear_mul3 : XorLinear mul3 := xorLinear_xtime.add xorLinear_id

theorem xorLinear_mul4 : XorLinear fun b => xtime (xtime b) := xorLinear_xtime.comp xorLinear_xtime

theorem xorLinear_mul8 : XorLinear fun b => xtime (xtime (xtime b)) := xorLinear_xtime.comp xorLinear_mul4

theorem xorLinear_mul9 : XorLinear mul9 := xorLinear_mul8.add xorLinear_id

theorem xorLinear_mul11 : XorLinear mul11 := (xorLinear_mul8.add xorLinear_xtime).add xorLinear_id

theorem xorLinear_mul13 : XorLinear mul13 := (xorLinear_mul8.add xorLinear_mul4).add xorLinear_id

theorem xorLinear_mul14 : XorLinear mul14 := (xorLinear_mul8.add xorLinear_mul4).add xorLinear_xtime

/-- The first row of the product of a column and the circulant matrix whose first row is `f g h k`. -/
def circulantRow (f g h k : Byte → Byte) (a b c d : Byte) : Byte := f a ^^^ g b ^^^ h c ^^^ k d

/-- The product: each row is the row above it, turned by one place. -/
def circulant (f g h k : Byte → Byte) (a b c d : Byte) : Bytes :=
  [circulantRow f g h k a b c d, circulantRow k f g h a b c d, circulantRow h k f g a b c d, circulantRow g h k f a b c d]

theorem mixColumns_cons (a b c d : Byte) (t : Bytes) :
    mixColumns (a :: b :: c :: d :: t) = circulant xtime mul3 id id a b c d ++ mixColumns t := rfl

theorem invMixColumns_cons (a b c d : Byte) (t : Bytes) :
    invMixColumns (a :: b :: c :: d :: t) = circulant mul14 mul11 mul13 mul9 a b c d ++ invMixColumns t := rfl

/-- Row `f g h k` times the columns of the circulant matrix of `m n p q` is the first row of the identity. -/
structure CirculantInverse (f g h k m n p q : Byte → Byte) : Prop where
  linear : XorLinear f ∧ XorLinear g ∧ XorLinear h ∧ XorLinear k
  first : ∀ x, f (m x) ^^^ g (q x) ^^^ h (p x) ^^^ k (n x) = x
  second : ∀ x, f (n x) ^^^ g (m x) ^^^ h (q x) ^^^ k (p x) = 0
  third : ∀ x, f (p x) ^^^ g (n x) ^^^ h (m x) ^^^ k (q x) = 0
  fourth : ∀ x, f (q x) ^^^ g (p x) ^^^ h (n x) ^^^ k (m x) = 0

section
variable {f g h k m n p q : Byte → Byte} (hinv : CirculantInverse f g h k m n p q)
include hinv

theorem CirculantInverse.row (a b c d : Byte) :
    circulantRow f g h k (circulantRow m n p q a b c d) (circulantRow q m n p a b c d) (circulantRow p q m n a b c d)
      (circulantRow n p q m a b c d) = a := by
  obtain ⟨⟨hf, hg, hh, hk⟩, hfirst, hsecond, hthird, hfourth⟩ := hinv
  unfold XorLinear at hf hg hh hk
  simp only [circulantRow, hf, hg, hh, hk]
  calc _ = (f (m a) ^^^ g (q a) ^^^ h (p a) ^^^ k (n a)) ^^^ (f (n b) ^^^ g (m b) ^^^ h (q b) ^^^ k (p b))
        ^^^ (f (p c) ^^^ g (n c) ^^^ h (m c) ^^^ k (q c)) ^^^ (f (q d) ^^^ g (p d) ^^^ h (n d) ^^^ k (m d)) := by ac_rfl
    _ = a := by rw [hfirst, hsecond, hthird, hfourth]; simp

/-- The other rows are the first one at the turned column. -/
theorem CirculantInverse.circulant_circulant (a b c d : Byte) :
    circulant f g h k (circulantRow m n p q a b c d) (circulantRow q m n p a b c d) (circulantRow p q m n a b c d)
      (circulantRow n p q m a b c d) = [a, b, c, d] := by
  have hrow := hinv.row
  unfold circulantRow at hrow
  simp only [circulant, circulantRow]
  congr 1
  · exact hrow a b c d
  congr 1
  · exact Eq.trans (by ac_rfl) (hrow b c d a)
  congr 1
  · exact Eq.trans (by ac_rfl) (hrow c d a b)
  congr 1
  · exact Eq.trans (by ac_rfl) (hrow d a b c)

end

theorem invMixColumn_inverse : CirculantInverse mul14 mul11 mul13 mul9 xtime mul3 id id where
  linear := ⟨xorLinear_mul14, xorLinear_mul11, xorLinear_mul13, xorLinear_mul9⟩
  first := by decide
  second := by decide
  third := by decide
  fourth := by decide

theorem mixColumn_inverse : CirculantInverse xtime mul3 id id mul14 mul11 mul13 mul9 where
  linear := ⟨xorLinear_xtime, xorLinear_mul3, xorLinear_id, xorLinear_id⟩
  first := by decide
  second := by decide
  third := by decide
  fourth := by decide

theorem column_length_mod (a b c d : Byte) {t : Bytes} : (a :: b :: c :: d :: t).length % 4 = 0 ↔ t.length % 4 = 0 := by
  simp only [List.length_cons]
  omega

/-- Every sequence of a multiple of 4 bytes is built of columns. -/
theorem column_induction {motive : (x : Bytes) → x.length % 4 = 0 → Prop} (nil : motive [] rfl)
    (column : ∀ (a b c d : Byte) (t : Bytes) (ht : t.length % 4 = 0),
      motive t ht → motive (a :: b :: c :: d :: t) ((column_length_mod a b c d).mpr ht)) :
    ∀ (x : Bytes) (hx : x.length % 4 = 0), motive x hx
  | [], _ => nil
  | [_], hx | [_, _], hx | [_, _, _], hx => by simp at hx
  | a :: b :: c :: d :: t, hx => column a b c d t _ (column_induction nil column t ((column_length_mod a b c d).mp hx))

theorem invMixColumns_mixColumns {x : Bytes} (hx : x.length % 4 = 0) : invMixColumns (mixColumns x) = x := by
  induction x, hx using column_induction with
  | nil => rfl
  | column a b c d t ht ih =>
    rw [mixColumns_cons, circulant, List.cons_append, List.cons_append, List.cons_append, List.singleton_append,
      invMixColumns_cons, invMixColumn_inverse.circulant_circulant, ih]
    rfl

theorem mixColumns_invMixColumns {x : Bytes} (hx : x.length % 4 = 0) : mixColumns (invMixColumns x) = x := by
  induction x, hx using column_induction with
  | nil => rfl
  | column a b c d t ht ih =>
    rw [invMixColumns_cons, circulant, List.cons_append, List.cons_append, List.cons_append, List.singleton_append,
      mixColumns_cons, mixColumn_inverse.circulant_circulant, ih]
    rfl

theorem invMixColumns_length {x : Bytes} (hx : x.length % 4 = 0) : (invMixColumns x).length = x.length := by
  induction x, hx using column_induction with
  | nil => rfl
  | column a b c d t ht ih => simp [invMixColumns, invMixColumn, ih]

theorem mixColumns_inverse : BlockInverse mixColumns invMixColumns := by
  intro x hx
  have hcols : x.length % 4 = 0 := by omega
  exact ⟨by rw [mixColumns_length, hx], by rw [invMixColumns_length hcols, hx], invMixColumns_mixColumns hcols,
    mixColumns_invMixColumns hcols⟩

/-! ### The cipher -/

/-- The rounds after the first AddRoundKey, with the rounds of the inverse cipher. -/
theorem encRounds_inverse (rks : List Bytes) (hrks : ∀ rk ∈ rks, rk.length = 16) :
    BlockInverse (encRounds rks) (decRounds rks) := by
  have hsubShift := subBytes_inverse.andThen shiftRows_inverse
  match rks with
  | [] => exact BlockInverse.id
  | [rk] => exact hsubShift.andThen (addRoundKey_inverse (hrks rk List.mem_cons_self))
  | rk :: rk' :: rks =>
    obtain ⟨hrk, hrest⟩ := List.forall_mem_cons.mp hrks
    exact ((hsubShift.andThen mixColumns_inverse).andThen (addRoundKey_inverse hrk)).andThen
      (encRounds_inverse (rk' :: rks) hrest)

theorem aes_inverse {k : Bytes} (hk : 4 ≤ k.length) : BlockInverse (aesEnc k) (aesDec k) := by
  have hrks := length_of_mem_roundKeys hk
  unfold aesEnc aesDec
  cases hkeys : roundKeys k with
  | nil => exact BlockInverse.id
  | cons rk rks =>
    obtain ⟨hrk, hrest⟩ := List.forall_mem_cons.mp (hkeys ▸ hrks)
    exact (addRoundKey_inverse hrk).andThen (encRounds_inverse rks hrest)

theorem four_le_of_isKeyLength {n : Nat} (h : isKeyLength n = true) : 4 ≤ n := by
  simp only [isKeyLength, Bool.or_eq_true, beq_iff_eq] at h
  omega

/-- Settles O48: the two directions of the cipher are inverse on blocks under every key. -/
theorem aesDecryptionInvertsEncryption : Obligations.AesDecryptionInvertsEncryption :=
  fun _ b hk hb => aes_inverse (four_le_of_isKeyLength hk) b hb

end Sys2Proof.Machine
end

section
/-! PROOFS. One form for all fourteen commands (spec/40_dispatch.md R103, R105, R107): a command is the function it applies to
P, the bytes of P that function reads, and whether it needs the IV. What a completion can do is said once, of this form. -/

namespace Sys2Proof.Machine

/-! ### The three parts of a command -/

/-- The function of the command on the input `p` and the IV `iv`, its result after the shim (R106). -/
def commandResult (i : Instr) (s : State) (iv p : Bytes) : Result :=
  match i with
  | .keynorm => opKeynorm (keyBuf s) (keyLength s)
  | .pad blksz => opPad p blksz
  | .unpadS => opUnpadS p
  | .unpadL => opUnpadL p
  | .cfbEnc => opCfbEnc fips197 (keyBuf s) (keyLength s) p iv
  | .cfbDec => opCfbDec fips197 (keyBuf s) (keyLength s) p
  | .ecbEnc typed => collapse typed (opEcbEnc fips197 (keyBuf s) (keyLength s) p)
  | .ecbDec typed => collapse typed (opEcbDec fips197 (keyBuf s) (keyLength s) p)
  | .ctrEnc => opCtrEnc fips197 (keyBuf s) (keyLength s) p iv
  | .ctrDec => opCtrDec s.cfg fips197 (keyBuf s) (keyLength s) p
  | .hexEnc => opHexEnc p
  | .hexDec => opHexDec p
  | .b64Enc => opB64Enc p
  | .b64Dec => opB64Dec s.cfg p

/-- The bytes of the input that the command reads (log 6). -/
def commandReads (i : Instr) (s : State) : Bytes → Nat → Bool :=
  match i with
  | .keynorm => readsNone
  | .pad blksz => readsPad blksz
  | .unpadS => readsUnpadS
  | .unpadL => readsUnpadL
  | .cfbEnc | .ecbEnc _ | .hexEnc | .b64Enc => readsAll
  | .cfbDec | .ecbDec _ | .hexDec => readsHex
  | .ctrEnc => if ctrEncReadsIv s then readsAll else readsNone
  | .ctrDec => readsCtrDec s.cfg (keyLength s)
  | .b64Dec => readsB64 s.cfg

/-- The command will read its IV (R105, R111). -/
def needsIv (i : Instr) (s : State) : Bool :=
  match i with
  | .cfbEnc => true
  | .ctrEnc => ctrEncReadsIv s
  | .keynorm | .pad _ | .unpadS | .unpadL | .cfbDec | .ecbEnc _ | .ecbDec _ | .ctrDec | .hexEnc | .hexDec | .b64Enc
  | .b64Dec => false

/-- The command past the check of R103. -/
def runCommand (i : Instr) (s : State) : Host.Outcome State Fault Refusal :=
  if needsIv i s then withIv s fun t iv => completeWith t (commandReads i s) (commandResult i t iv)
  else completeWith s (commandReads i s) (commandResult i s [])

theorem needsIv_command {i : Instr} {s : State} (h : needsIv i s = true) : i = .cfbEnc ∨ i = .ctrEnc := by
  cases i <;> simp [needsIv] at h ⊢

/-- The functions do not look at the offer of a draw. -/
theorem commandResult_setIvDraw (i : Instr) (s : State) (d : Option Draw) :
    commandResult i (s.setIvDraw d) = commandResult i s := by
  cases i <;> rfl

theorem readInput_readsNone (s : State) : readInput s readsNone = some (filledInput s) := by
  simp [readInput, readsNone]

/-- KEYNORM has no check of its input (R103), and reads none of it. -/
theorem exec_keynorm (s : State) : exec .keynorm s = runCommand .keynorm s := by
  change _ = completeWith s readsNone (fun p => commandResult .keynorm s [] p)
  rw [completeWith, readInput_readsNone]
  rfl

/-- R103, for every other command. -/
theorem exec_eq_checkInput {i : Instr} (hi : i ≠ .keynorm) (s : State) : exec i s = checkInput s (runCommand i s) := by
  cases i with
  | keynorm => exact absurd rfl hi
  | ctrEnc =>
    change checkInput s _ = checkInput s _
    cases hiv : ctrEncReadsIv s <;> simp only [runCommand, needsIv, commandReads, hiv] <;> rfl
  | pad | unpadS | unpadL | cfbEnc | cfbDec | ecbEnc | ecbDec | ctrDec | hexEnc | hexDec | b64Enc | b64Dec => rfl

/-! ### Everything a completion can do -/

/-- A byte that the command reads is UNWRITTEN. -/
def ReadsUnwritten (s : State) (reads : Bytes → Nat → Bool) : Prop :=
  ∃ j, j < inLength s ∧ reads (filledInput s) j = true ∧ s.byteAt (ibufBase + j) = none

theorem readInput_eq_none_iff {s : State} {reads : Bytes → Nat → Bool} :
    readInput s reads = none ↔ ReadsUnwritten s reads := by
  simp [readInput, ReadsUnwritten]

/-- A command whose reads all find a value runs on the filled input. -/
theorem readInput_of_not_readsUnwritten {s : State} {reads : Bytes → Nat → Bool} (h : ¬ReadsUnwritten s reads) :
    readInput s reads = some (filledInput s) := by
  obtain ⟨p, hp⟩ := Option.ne_none_iff_exists'.mp (mt readInput_eq_none_iff.mp h)
  rw [hp, (readInput_eq_some hp).1]

/-- What `completeWith` answers, and why. -/
theorem completeWith_answer (s : State) (reads : Bytes → Nat → Bool) (op : Bytes → Result) :
    (¬ReadsUnwritten s reads ∧ completeWith s reads op = .next (finish s (op (filledInput s))))
    ∨ (ReadsUnwritten s reads ∧ completeWith s reads op = .fault .unwrittenInput) := by
  by_cases h : ReadsUnwritten s reads
  · exact .inr ⟨h, by rw [completeWith, readInput_eq_none_iff.mpr h]⟩
  · exact .inl ⟨h, by rw [completeWith, readInput_of_not_readsUnwritten h]⟩

/-- Everything a command can answer, with what it finishes with and which draw it leaves on offer. -/
inductive CommandAnswer (i : Instr) (s : State) : Host.Outcome State Fault Refusal → Prop where
  /-- It needs the draw and none is on offer (R105). -/
  | waits (hlen : inputTooLong s = false) (hiv : needsIv i s = true) (hsel : s.curIvsel = false) (hdraw : s.ivDraw = none) :
      CommandAnswer i s (.next s)
  /-- It reads an UNWRITTEN byte (U3). -/
  | faults (hlen : inputTooLong s = false) (hread : ReadsUnwritten s (commandReads i s)) :
      CommandAnswer i s (.fault .unwrittenInput)
  /-- Its input is too long (R103). -/
  | tooLong (hi : i ≠ .keynorm) (hlen : inputTooLong s = true) : CommandAnswer i s (.next (finish s (.err .inputOverflow)))
  /-- It finishes with the result of its function, and takes at most the draw that is its IV. -/
  | finishes (iv : Bytes) (d : Option Draw) (hlen : i = .keynorm ∨ inputTooLong s = false)
      (hread : ¬ReadsUnwritten s (commandReads i s)) (hiv : iv.length = 16 ∨ (needsIv i s = false ∧ iv = []))
      (hd : d = s.ivDraw ∨ (needsIv i s = true ∧ s.curIvsel = false ∧ d = none)) :
      CommandAnswer i s (.next (finish (s.setIvDraw d) (commandResult i s iv (filledInput s))))

theorem runCommand_answer {i : Instr} {s : State} (hlen : i = .keynorm ∨ inputTooLong s = false)
    (hfault : ReadsUnwritten s (commandReads i s) → inputTooLong s = false) : CommandAnswer i s (runCommand i s) := by
  cases hiv : needsIv i s with
  | false =>
    rw [runCommand, hiv, if_neg (by decide)]
    rcases completeWith_answer s (commandReads i s) (commandResult i s []) with ⟨hread, he⟩ | ⟨hread, he⟩
    · exact he ▸ .finishes [] s.ivDraw hlen hread (.inr ⟨hiv, rfl⟩) (.inl rfl)
    · exact he ▸ .faults (hfault hread) hread
  | true =>
    rw [runCommand, hiv, if_pos rfl]
    rcases withIv_cases s _ with ⟨-, he⟩ | ⟨d, hsel, -, he⟩ | ⟨hsel, hdraw, he⟩
    · rw [he]
      rcases completeWith_answer s (commandReads i s) (commandResult i s (ivBuf s)) with ⟨hread, he⟩ | ⟨hread, he⟩
      · exact he ▸ .finishes (ivBuf s) s.ivDraw hlen hread (.inl (ivBuf_length s)) (.inl rfl)
      · exact he ▸ .faults (hfault hread) hread
    · rw [he, commandResult_setIvDraw]
      rcases completeWith_answer (s.setIvDraw none) (commandReads i s) (commandResult i s d.toList) with
        ⟨hread, he⟩ | ⟨hread, he⟩
      · exact he ▸ .finishes d.toList none hlen hread (.inl d.length_toList) (.inr ⟨hiv, hsel, rfl⟩)
      · exact he ▸ .faults (hfault hread) hread
    · refine he ▸ .waits (hlen.resolve_left ?_) hiv hsel hdraw
      rintro rfl
      cases hiv

/-- Everything `exec` can answer, for every command in every state. -/
theorem exec_commandAnswer (i : Instr) (s : State) : CommandAnswer i s (exec i s) := by
  by_cases hi : i = .keynorm
  · subst hi
    rw [exec_keynorm]
    refine runCommand_answer (.inl rfl) fun ⟨_, _, hread, _⟩ => ?_
    simp [commandReads, readsNone] at hread
  · rw [exec_eq_checkInput hi]
    rcases checkInput_cases s (runCommand i s) with ⟨hlen, he⟩ | ⟨hlen, he⟩
    · exact he ▸ .tooLong hi hlen
    · rw [he]
      exact runCommand_answer (.inr hlen) fun _ => hlen

/-! ### The frame of a completion (R41) -/

/-- What a completion leaves alone: all but OBUF, OUT_LEN, four fields of STATUS, the phase and the offer. -/
structure CompletionFrame (s t : State) : Prop where
  registers : t.ctrl = s.ctrl ∧ t.cmd = s.cmd ∧ t.keyLen = s.keyLen ∧ t.inLen = s.inLen ∧ t.curIvsel = s.curIvsel
    ∧ t.cfg = s.cfg
  others : t.schedule = s.schedule ∧ t.hostReads = s.hostReads ∧ t.fresh = s.fresh
  busyWr : statusBusyWr t.status = statusBusyWr s.status
  reserved : t.status &&& statusReserved = s.status &&& statusReserved
  bytes : ∀ a, ¬(obufBase ≤ a ∧ a < obufBase + s.cfg.obufSize) → t.byteAt a = s.byteAt a

theorem completionFrame_refl (s : State) : CompletionFrame s s := by
  constructor <;> simp

theorem completionFrame_finishOk (s : State) {out : Bytes} (h : out.length ≤ s.cfg.obufSize) :
    CompletionFrame s (finishOk s out) where
  registers := ⟨rfl, rfl, rfl, rfl, rfl, rfl⟩
  others := ⟨rfl, rfl, rfl⟩
  busyWr := statusBusyWr_statusOk _
  reserved := reserved_statusOk _
  bytes a ha := (finishOk_completes s out h).otherBytes a fun ha' => ha (by omega)

theorem completionFrame_finishErr (s : State) (e : ErrorName) : CompletionFrame s (finishErr s e) where
  registers := ⟨rfl, rfl, rfl, rfl, rfl, rfl⟩
  others := ⟨rfl, rfl, rfl⟩
  busyWr := statusBusyWr_statusError _ e
  reserved := reserved_statusError _ e
  bytes := (finishErr_completes s e).otherBytes

theorem completionFrame_finish (s : State) (r : Result) : CompletionFrame s (finish s r) := by
  rcases finish_cases s r with ⟨out, -, h, hf⟩ | ⟨out, -, -, hf⟩ | ⟨e, -, hf⟩
  · exact hf ▸ completionFrame_finishOk s h
  · exact hf ▸ completionFrame_finishErr s _
  · exact hf ▸ completionFrame_finishErr s e

theorem completionFrame_finish_setIvDraw (s : State) (d : Option Draw) (r : Result) :
    CompletionFrame s (finish (s.setIvDraw d) r) :=
  { completionFrame_finish (s.setIvDraw d) r with }

/-- Settles O25: each answer of a command is the state itself or Finish, which has R41's frame. -/
theorem completionWritesOnlyItsResults : Obligations.CompletionWritesOnlyItsResults := by
  intro i s t hexec
  have hframe : CompletionFrame s t
      ∧ (t.ivDraw = s.ivDraw ∨ ((i = .cfbEnc ∨ i = .ctrEnc) ∧ s.curIvsel = false ∧ t.ivDraw = none)) := by
    cases hexec ▸ exec_commandAnswer i s with
    | waits => exact ⟨completionFrame_refl s, .inl rfl⟩
    | tooLong => exact ⟨completionFrame_finish s _, .inl (finish_ivDraw s _)⟩
    | finishes iv d _ _ _ hd =>
      refine ⟨completionFrame_finish_setIvDraw s d _, ?_⟩
      rw [finish_ivDraw, State.setIvDraw_ivDraw]
      exact hd.imp_right fun ⟨hneeds, hsel, hnone⟩ => ⟨needsIv_command hneeds, hsel, hnone⟩
  obtain ⟨⟨⟨hctrl, hcmd, hkl, hil, hsel, hcfg⟩, ⟨hsched, hreads, hfresh⟩, hbusyWr, hres, hbytes⟩, hdraw⟩ :=
    hframe
  exact ⟨hctrl, hcmd, hkl, hil, hsel, hcfg, hsched, hreads, hfresh, hbusyWr, hres, hbytes, hdraw⟩

/-! ### The errors that the commands' functions raise (R241) -/

/-- The errors of the functions themselves. -/
def functionErrors : List ErrorName :=
  [.invalidKeyLength, .emptyInput, .emptyPlaintext, .decodeError, .tooShort, .invalidPadding, .notBlockMultiple,
   .invalidBlockSize]

/-- The result is Ok or one of the functions' errors. -/
def Result.RaisesOwn (r : Result) : Prop := ∀ e, r = .err e → e ∈ functionErrors

theorem raisesOwn_ok (out : Bytes) : (Result.ok out).RaisesOwn := nofun

theorem raisesOwn_err {e : ErrorName} (h : e ∈ functionErrors) : (Result.err e).RaisesOwn := by
  rintro _ ⟨⟩
  exact h

theorem raisesOwn_unpadStrict (p : Bytes) : (unpadStrict p).RaisesOwn := by
  rcases unpadStrict_cases p with ⟨q, -, -, -, -, h⟩ | h
  · exact h ▸ raisesOwn_ok q
  · exact h ▸ raisesOwn_err (by decide)

theorem hexDecode_cases (t : Bytes) : hexDecode t = .err .decodeError ∨ ∃ out, hexDecode t = .ok out := by
  unfold hexDecode
  split
  · exact .inl rfl
  · split
    · exact .inr ⟨_, rfl⟩
    · exact .inl rfl

theorem raisesOwn_hexDecode (t : Bytes) : (hexDecode t).RaisesOwn := by
  rcases hexDecode_cases t with h | ⟨out, h⟩
  · exact h ▸ raisesOwn_err (by decide)
  · exact h ▸ raisesOwn_ok out

theorem raisesOwn_b64Decode (q : Params) (t : Bytes) : (b64Decode q t).RaisesOwn := by
  rcases b64Decode_cases q t with h | ⟨out, h⟩
  · exact h ▸ raisesOwn_err (by decide)
  · exact h ▸ raisesOwn_ok out

theorem raisesOwn_opPad (p : Bytes) (b : Nat) : (opPad p b).RaisesOwn := by
  unfold opPad
  split
  · exact raisesOwn_err (by decide)
  · exact raisesOwn_ok _

theorem raisesOwn_opCfbDec (c : BlockCipher) (kb : Bytes) (kl : Nat) (t : Bytes) : (opCfbDec c kb kl t).RaisesOwn := by
  unfold opCfbDec
  split
  · next h => exact h ▸ raisesOwn_hexDecode t
  · split
    · exact raisesOwn_err (by decide)
    · exact raisesOwn_ok _

theorem raisesOwn_opEcbDec (c : BlockCipher) (kb : Bytes) (kl : Nat) (t : Bytes) : (opEcbDec c kb kl t).RaisesOwn := by
  unfold opEcbDec
  split
  · next h => exact h ▸ raisesOwn_hexDecode t
  · split_ifs
    · exact raisesOwn_err (by decide)
    · exact raisesOwn_err (by decide)
    · exact raisesOwn_ok _

theorem raisesOwn_collapse (typed : Bool) {r : Result} (h : r.RaisesOwn) : (collapse typed r).RaisesOwn := by
  cases r with
  | ok out => exact raisesOwn_ok out
  | err e =>
    rw [collapse]
    split
    · exact raisesOwn_ok _
    · exact h

theorem raisesOwn_opCtrEnc (c : BlockCipher) (kb : Bytes) (kl : Nat) (p iv : Bytes) : (opCtrEnc c kb kl p iv).RaisesOwn := by
  unfold opCtrEnc
  split
  · exact raisesOwn_err (by decide)
  · split
    · exact raisesOwn_err (by decide)
    · exact raisesOwn_ok _

theorem raisesOwn_opCtrDec (q : Params) (c : BlockCipher) (kb : Bytes) (kl : Nat) (t : Bytes) :
    (opCtrDec q c kb kl t).RaisesOwn := by
  unfold opCtrDec
  split
  · exact raisesOwn_err (by decide)
  · split
    · exact raisesOwn_err (by decide)
    · split
      · next h => exact h ▸ raisesOwn_b64Decode q t
      · split
        · exact raisesOwn_err (by decide)
        · exact raisesOwn_unpadStrict _

theorem raisesOwn_commandResult (i : Instr) (s : State) (iv p : Bytes) : (commandResult i s iv p).RaisesOwn := by
  cases i with
  | keynorm | unpadL | cfbEnc | hexEnc | b64Enc => exact raisesOwn_ok _
  | pad b => exact raisesOwn_opPad p b
  | unpadS => exact raisesOwn_unpadStrict p
  | cfbDec => exact raisesOwn_opCfbDec _ _ _ p
  | ecbEnc typed => exact raisesOwn_collapse typed (raisesOwn_ok _)
  | ecbDec typed => exact raisesOwn_collapse typed (raisesOwn_opEcbDec _ _ _ p)
  | ctrEnc => exact raisesOwn_opCtrEnc _ _ _ p iv
  | ctrDec => exact raisesOwn_opCtrDec _ _ _ _ p
  | hexDec => exact raisesOwn_hexDecode p
  | b64Dec => exact raisesOwn_b64Decode _ p

/-! ### The two ways to end (R240) -/

/-- R241: the codes differ. -/
theorem errorCode_injective {e e' : ErrorName} (h : errorCode e = errorCode e') : e = e' := by
  revert h
  cases e <;> cases e' <;> decide

theorem not_completesErr_of_completesOk {s t : State} {out : Bytes} (h : CompletesOk s t out) (e : ErrorName) :
    ¬CompletesErr s t e := fun he => Bool.false_ne_true (h.err.symm.trans he.err)

theorem completesErr_unique {s t : State} {e e' : ErrorName} (h : CompletesErr s t e) (h' : CompletesErr s t e') : e' = e :=
  errorCode_injective (h'.errCode.symm.trans h.errCode)

/-- A completion's error is the result's own, or OUTPUT_OVERFLOW for an output that is too long. -/
theorem finish_ends (s : State) (r : Result) :
    (∃ out, CompletesOk s (finish s r) out)
    ∨ ∃ e, CompletesErr s (finish s r) e
      ∧ (r = .err e ∨ ∃ out, r = .ok out ∧ s.cfg.obufSize < out.length ∧ e = .outputOverflow) := by
  rcases finish_cases s r with ⟨out, -, h, hf⟩ | ⟨out, hr, hlong, hf⟩ | ⟨e, hr, hf⟩
  · exact .inl ⟨out, hf ▸ finishOk_completes s out h⟩
  · exact .inr ⟨_, hf ▸ finishErr_completes s _, .inr ⟨out, hr, hlong, rfl⟩⟩
  · exact .inr ⟨e, hf ▸ finishErr_completes s e, .inl hr⟩

/-- No command raises a reserved error (R211, U15). -/
theorem not_reserved_of_mem {e : ErrorName} (h : e ∈ functionErrors ∨ e = .inputOverflow ∨ e = .outputOverflow) :
    e ≠ .cipherConstruction ∧ e ≠ .decompressError := by
  constructor <;> rintro rfl <;> revert h <;> decide

/-- R240: an Ok completion and no error completion, or the reverse, with one error that is not reserved. -/
def EndsInOneWay (s t : State) : Prop :=
  ((∃ out, CompletesOk s t out) ∧ ∀ e, ¬CompletesErr s t e)
  ∨ ∃ e, CompletesErr s t e ∧ e ≠ .cipherConstruction ∧ e ≠ .decompressError ∧ (∀ out, ¬CompletesOk s t out)
    ∧ ∀ e', CompletesErr s t e' → e' = e

theorem endsInOneWay_finish (s : State) (d : Option Draw) {r : Result}
    (hr : ∀ e, r = .err e → e ∈ functionErrors ∨ e = .inputOverflow) : EndsInOneWay s (finish (s.setIvDraw d) r) := by
  rcases finish_ends (s.setIvDraw d) r with ⟨out, hok⟩ | ⟨e, herr, hwhy⟩
  · have hok := completesOk_of_setIvDraw hok
    exact .inl ⟨⟨out, hok⟩, not_completesErr_of_completesOk hok⟩
  · have herr := completesErr_of_setIvDraw herr
    have hraised : e ∈ functionErrors ∨ e = .inputOverflow ∨ e = .outputOverflow := by
      rcases hwhy with hre | ⟨_, -, -, hover⟩
      · exact (hr e hre).imp_right .inl
      · exact .inr (.inr hover)
    obtain ⟨hcipher, hdecompress⟩ := not_reserved_of_mem hraised
    exact .inr ⟨e, herr, hcipher, hdecompress, fun out hok => not_completesErr_of_completesOk hok e herr,
      fun _ => completesErr_unique herr⟩

/-- Settles O26: what a command finishes with is an error of its function, an overflow, or Ok; the flags tell these apart. -/
theorem commandEndsInOneOfTwoWays : Obligations.CommandEndsInOneOfTwoWays := by
  intro i s t hexec
  cases hexec ▸ exec_commandAnswer i s with
  | waits _ hiv hsel hdraw => exact .inl ⟨rfl, needsIv_command hiv, hsel, hdraw⟩
  | tooLong => exact .inr (endsInOneWay_finish s s.ivDraw fun e he => .inr (Result.err.inj he).symm)
  | finishes iv d =>
    exact .inr (endsInOneWay_finish s d fun e he => .inl (raisesOwn_commandResult i s iv (filledInput s) e he))

/-- Settles O27: the check of R103 comes before the command, which KEYNORM alone does not have. -/
theorem longInputCompletesWithInputOverflow : Obligations.LongInputCompletesWithInputOverflow := by
  intro i s hi hlong
  have hlen : inputTooLong s = true := decide_eq_true hlong
  refine ⟨_, (exec_eq_checkInput hi s).trans (if_pos hlen), finishErr_completes s .inputOverflow, rfl⟩

end Sys2Proof.Machine
end

section
/-! PROOFS. The controller's turn (spec/40_dispatch.md R102, R103), whether it stands first in the schedule or nothing is
scheduled. -/

namespace Sys2Proof.Machine

theorem controllerTurn_of_idle {s : State} (h : s.phase = .idle) : controllerTurn s = .next s := by
  rw [controllerTurn, h]

theorem controllerTurn_of_legal {s : State} {i : Instr} (h : s.phase = .busy) (hdec : decode s.cmd = .ok i) :
    controllerTurn s = exec i s := by
  rw [controllerTurn, h, hdec]

theorem controllerTurn_of_illegal {s : State} {e : Illegal} (h : s.phase = .busy) (hdec : decode s.cmd = .error e) :
    controllerTurn s = .next (finishErr s .illegalCommand) := by
  rw [controllerTurn, h, hdec, ← completeIllegal_eq]

/-- Settles O5: the controller's turn runs the command, and taking the event leaves the word and the phase. -/
theorem stepRunsTheDecodedCommand : Obligations.StepRunsTheDecodedCommand :=
  fun _ _ hbusy hdec _ =>
    ⟨fun _ hsched => (step_cons hsched).trans (controllerTurn_of_legal hbusy hdec),
      fun hsched => (step_nil hsched).trans (controllerTurn_of_legal hbusy hdec)⟩

/-- Settles O6: the controller's turn is the error entry with ILLEGAL_COMMAND, whatever the input. -/
theorem illegalWordCompletesWithIllegalCommand : Obligations.IllegalWordCompletesWithIllegalCommand :=
  fun _ _ hbusy hdec =>
    ⟨fun _ hsched => ⟨_, (step_cons hsched).trans (controllerTurn_of_illegal hbusy hdec), finishErr_completes _ _, rfl⟩,
      fun hsched => ⟨_, (step_nil hsched).trans (controllerTurn_of_illegal hbusy hdec), finishErr_completes _ _, rfl⟩⟩

/-- Settles O7: with phase IDLE the controller's turn leaves the state. -/
theorem idleControllerChangesNothing : Obligations.IdleControllerChangesNothing :=
  fun _ hidle =>
    ⟨fun hsched => (step_nil hsched).trans (controllerTurn_of_idle hidle),
      fun _ hsched => (step_cons hsched).trans (controllerTurn_of_idle hidle)⟩

end Sys2Proof.Machine
end

section
/-! PROOFS. Host accesses to the register range (spec/10_state.md R23 to R31, spec/20_memory.md R61, R64, R65). -/

namespace Sys2Proof.Machine

/-! ### Admitted accesses (R61) -/

theorem admitted_iff {addr : Addr} {n : Width} :
    admitted addr n = true ↔ addr.toNat % n.bytes = 0 ∧ (addr.toNat ≤ 0x00FF → n = .word) := by
  have hwide : n.bytes = 4 ↔ n = .word := by cases n <;> decide
  simp only [admitted, Bool.and_eq_true, Bool.or_eq_true, decide_eq_true_eq, hwide]
  refine and_congr_right fun _ => ?_
  rw [or_comm, or_iff_not_imp_left, Nat.not_lt]

theorem hostRead_of_admitted {addr : Addr} {n : Width} (h : admitted addr n = true) (s : State) :
    hostRead s addr n = .next ((s.setHostReads (readValue s addr n :: s.hostReads)).setFresh (s.fresh + 1)) := if_pos h

/-- Settles O23: a host access faults exactly when it is not admitted. -/
theorem onlyAdmittedAccessesHaveAStep : Obligations.OnlyAdmittedAccessesHaveAStep := by
  intro s addr n v rest hsched
  rw [← admitted_iff]
  have hstep : (admitted addr n = true ∧ ∃ t, step s = .next t)
      ∨ (admitted addr n = false ∧ step s = .fault .notAdmitted) := by
    rcases hsched with h | h <;> rw [step_cons h]
    · exact (hostRead_cases _ addr n).imp_left fun ⟨hadm, he⟩ => ⟨hadm, _, he⟩
    · rcases hostWrite_cases (s.setSchedule rest) addr n v with ⟨hadm, -, he⟩ | ⟨hadm, -, he⟩ | hbad
      · exact .inl ⟨hadm, _, he⟩
      · exact .inl ⟨hadm, _, he⟩
      · exact .inr hbad
  rcases hstep with ⟨hadm, t, ht⟩ | ⟨hadm, ht⟩ <;> simp [hadm, ht]

/-! ### Register writes -/

theorem getLsbD_ctrlStored (v : Word) (j : Nat) : (ctrlStored v).getLsbD j = (decide (j < 2) && v.getLsbD j) := by
  have hmask : ∀ i : Fin 32, (0x00000003#32).getLsbD i.val = decide (i.val < 2) := by decide
  rw [ctrlStored, BitVec.getLsbD_and, Bool.and_comm]
  by_cases hj : j < 32
  · exact congrArg (· && _) (hmask ⟨j, hj⟩)
  · simp [BitVec.getLsbD_of_ge v j (by omega)]

/-- Settles O13: the next state of a write to STATUS, flag by flag. -/
theorem statusWriteClearsDoneAndBusyWr : Obligations.StatusWriteClearsDoneAndBusyWr :=
  fun s v _ hsched => ⟨_, (step_cons hsched).trans (hostWrite_status _ v), statusDone_afterWrite s.status v,
    statusBusyWr_afterWrite s.status v, statusBusy_afterWrite s.status v, statusErr_afterWrite s.status v,
    statusErrCode_afterWrite s.status v, reserved_afterWrite s.status v, rfl⟩

/-- Settles O14: the next state of a write to CTRL, bit by bit. -/
theorem ctrlWriteTakesTwoBits : Obligations.CtrlWriteTakesTwoBits :=
  fun _ v _ hsched => ⟨_, (step_cons hsched).trans (hostWrite_ctrl _ v), getLsbD_ctrlStored v, rfl, rfl⟩

theorem hostWrite_keyLen_of_idle {s : State} (h : s.phase = .idle) (v : Word) :
    hostWrite s 0x0010 .word v = .next (s.setKeyLen v) := by
  rw [hostWrite_register v (by decide) (by decide)]
  exact congrArg _ (unlessBusy_of_idle h (s.setKeyLen v))

theorem hostWrite_inLen_of_idle {s : State} (h : s.phase = .idle) (v : Word) :
    hostWrite s 0x0014 .word v = .next (s.setInLen v) := by
  rw [hostWrite_register v (by decide) (by decide)]
  exact congrArg _ (unlessBusy_of_idle h (s.setInLen v))

/-- Settles O15: the two length registers, while IDLE. -/
theorem lengthWritesStoreAnyValue : Obligations.LengthWritesStoreAnyValue :=
  fun s v rest hidle =>
    ⟨fun hsched => (step_cons hsched).trans (hostWrite_keyLen_of_idle (s := s.setSchedule rest) hidle v),
      fun hsched => (step_cons hsched).trans (hostWrite_inLen_of_idle (s := s.setSchedule rest) hidle v)⟩

/-- R64, R65: an offset that is no writable register. -/
theorem writeRegister_ignored (s : State) {offset : Nat} (v : Word)
    (h : offset ≠ 0x0004 ∧ offset ≠ 0x0008 ∧ offset ≠ 0x000C ∧ offset ≠ 0x0010 ∧ offset ≠ 0x0014) :
    writeRegister s offset v = s := by
  simp [writeRegister, h]

/-! ### Register reads -/

/-- R66: the whole next state of an admitted read. -/
theorem step_hostRead {s : State} {addr : Addr} {n : Width} {rest : List Event}
    (hsched : s.schedule = .hostRead addr n :: rest) (hadm : admitted addr n = true) :
    step s = .next (((s.setSchedule rest).setHostReads (readValue s addr n :: s.hostReads)).setFresh (s.fresh + 1)) :=
  (step_cons hsched).trans (hostRead_of_admitted hadm _)

/-- Settles O19: the next state of an admitted read. -/
theorem readHasNoSideEffect : Obligations.ReadHasNoSideEffect :=
  fun _ _ _ _ hsched hadm => ⟨_, _, step_hostRead hsched hadm, rfl, rfl⟩

/-- Above the last register the register range reads 0 (R65). -/
theorem readRegister_unmapped (s : State) {offset : Nat} (h : 0x0024 ≤ offset) : readRegister s offset = 0 := by
  unfold readRegister
  rw [if_neg, if_neg, if_neg, if_neg, if_neg, if_neg, if_neg, if_neg, if_neg] <;> omega

/-- Settles O20: an aligned 4-byte read in the register range hands over `readRegister`, whose table is R23 to R31. -/
theorem registerReadsReturnTheRegisters : Obligations.RegisterReadsReturnTheRegisters := by
  intro s addr rest hsched halign hlow
  have hadm : admitted addr .word = true := admitted_iff.mpr ⟨halign, fun _ => rfl⟩
  have hvalue : readValue s addr .word = readRegister s addr.toNat := if_pos (by omega)
  refine ⟨_, readRegister s addr.toNat, hvalue ▸ step_hostRead hsched hadm, rfl, ?_, ?_, ?_, ?_, ?_, ?_, ?_, ?_, ?_, ?_⟩
  case refine_10 => exact readRegister_unmapped s
  all_goals rintro rfl; rfl

end Sys2Proof.Machine
end

section
/-! PROOFS. Host accesses to the buffers (spec/20_memory.md R62, R64, R65, R68): a byte lane is stored where it falls in KEYBUF,
IVBUF or IBUF, and nowhere else; a read gives the stored bytes, the lowest lane first. -/

namespace Sys2Proof.Machine

/-! ### Where a byte lane is stored -/

theorem not_isInputBufferAddress {p : Params} {a : Nat}
    (h : ¬((0x0100 ≤ a ∧ a < 0x0130) ∨ (0x4000 ≤ a ∧ a < 0x4000 + p.ibufSize))) : ¬isInputBufferAddress p a := by
  unfold isInputBufferAddress regionOf keybufBase keybufSize ivbufBase ivbufSize ibufBase
  rw [if_neg (c := 0x0100 ≤ a ∧ a < 0x0100 + 32) (by omega), if_neg (c := 0x0120 ≤ a ∧ a < 0x0120 + 16) (by omega),
    if_neg (c := 0x4000 ≤ a ∧ a < 0x4000 + p.ibufSize) (by omega)]
  split_ifs <;> decide

theorem writeLane_ignored (s : State) {a : Nat} (h : ¬isInputBufferAddress s.cfg a) (b : Byte) : writeLane s a b = s := by
  unfold isInputBufferAddress at h
  unfold writeLane
  cases hr : regionOf s.cfg a <;> simp [hr] at h ⊢

theorem forall_lane_cons {P : Nat → Prop} {a : Nat} {b : Byte} {bs : Bytes} :
    (∀ j, j < (b :: bs).length → P (a + j)) ↔ P a ∧ ∀ j, j < bs.length → P (a + 1 + j) := by
  rw [List.length_cons, Nat.forall_lt_succ_left]
  simp only [Nat.add_zero, Nat.add_assoc, Nat.add_comm 1]

theorem writeLanes_ignored (s : State) {a : Nat} {bs : Bytes}
    (h : ∀ j, j < bs.length → ¬isInputBufferAddress s.cfg (a + j)) : writeLanes s a bs = s := by
  induction bs generalizing a with
  | nil => rfl
  | cons b bs ih =>
    obtain ⟨hfirst, hrest⟩ := forall_lane_cons (P := fun x => ¬isInputBufferAddress s.cfg x).mp h
    rw [writeLanes, writeLane_ignored s hfirst, ih hrest]

/-- While IDLE the lanes of a write that falls in the input buffers are stored. -/
theorem writeLanes_of_idle {s : State} (hidle : s.phase = .idle) {a : Nat} {bs : Bytes}
    (h : ∀ j, j < bs.length → isInputBufferAddress s.cfg (a + j)) :
    writeLanes s a bs = s.setMem (Memory.writeBytes s.mem a bs) := by
  induction bs generalizing s a with
  | nil => rfl
  | cons b bs ih =>
    obtain ⟨hfirst, hrest⟩ := forall_lane_cons.mp h
    rw [writeLanes, writeLane_of_inputBuffer hfirst, unlessBusy_of_idle hidle]
    exact ih (s := s.setMem (Memory.write s.mem a b)) hidle hrest

/-- R60 and R61: the buffers' sizes are multiples of 4, so an aligned access that begins in one stays in it. -/
theorem aligned_access_in_range {p : Params} (hlegal : p.legal = true) {addr : Addr} {n : Width} (hadm : admitted addr n = true)
    (h : (0x0100 ≤ addr.toNat ∧ addr.toNat < 0x0130) ∨ (0x4000 ≤ addr.toNat ∧ addr.toNat < 0x4000 + p.ibufSize))
    {j : Nat} (hj : j < n.bytes) : isInputBufferAddress p (addr.toNat + j) := by
  simp only [Params.legal, Bool.and_eq_true, decide_eq_true_eq] at hlegal
  have halign := (admitted_iff.mp hadm).1
  refine isInputBufferAddress_of_range ?_
  cases n <;> simp only [Width.bytes] at hj halign <;> omega

/-- R62 and R64: the whole next state of an admitted buffer write while IDLE. -/
theorem hostWrite_buffer_of_idle {s : State} {addr : Addr} {n : Width} (v : Word) (hidle : s.phase = .idle)
    (hlegal : s.cfg.legal = true) (hadm : admitted addr n = true)
    (h : (0x0100 ≤ addr.toNat ∧ addr.toNat < 0x0130) ∨ (0x4000 ≤ addr.toNat ∧ addr.toNat < 0x4000 + s.cfg.ibufSize)) :
    hostWrite s addr n v = .next (s.setMem (Memory.writeBytes s.mem addr.toNat (dataBytes n v))) := by
  rw [hostWrite_lanes v hadm (by omega), writeLanes_of_idle hidle]
  intro j hj
  exact aligned_access_in_range hlegal hadm h (by rwa [dataBytes_length] at hj)

theorem dataBytes_getD {n : Width} {j : Nat} (v : Word) (hj : j < n.bytes) :
    (dataBytes n v).getD j 0 = v.extractLsb' (8 * j) 8 := by
  simp [dataBytes, dataByte, hj]

/-- Settles O16: the bytes written and the bytes left, by `Memory.read_writeBytes`. -/
theorem bufferWriteStoresLittleEndianBytes : Obligations.BufferWriteStoresLittleEndianBytes := by
  intro s addr n v rest hidle hlegal hsched hadm haddr
  have hwrite := hostWrite_buffer_of_idle (s := s.setSchedule rest) v hidle hlegal hadm haddr
  refine ⟨_, (step_cons hsched).trans hwrite, rfl, fun j hj => ?_, fun a ha => ?_⟩
  · rw [byteAt_def, State.setMem_mem, Memory.read_writeBytes, dataBytes_length, if_pos (by omega),
      Nat.add_sub_cancel_left, dataBytes_getD v hj]
  · rw [byteAt_def, State.setMem_mem, Memory.read_writeBytes, dataBytes_length, if_neg ha]
    rfl

/-- Settles O18: no such offset is a writable register, and no such address is in an input buffer. -/
theorem readOnlyAndUnmappedWritesAreIgnored : Obligations.ReadOnlyAndUnmappedWritesAreIgnored := by
  intro s addr n v rest _ hsched hadm haddr
  rw [step_cons hsched]
  have hsplit : (addr.toNat ≤ 0x00FF ∧ addr.toNat ≠ 0x0004 ∧ addr.toNat ≠ 0x0008 ∧ addr.toNat ≠ 0x000C
        ∧ addr.toNat ≠ 0x0010 ∧ addr.toNat ≠ 0x0014)
      ∨ (0x0130 ≤ addr.toNat ∧ addr.toNat < 0x4000) ∨ 0x4000 + s.cfg.ibufSize ≤ addr.toNat := by
    rcases haddr with rfl | rfl | rfl | rfl | hunmapped | hbuf
    · exact .inl (by decide)
    · exact .inl (by decide)
    · exact .inl (by decide)
    · exact .inl (by decide)
    · exact .inl (by omega)
    · exact .inr hbuf
  rcases hsplit with ⟨hlow, hreg⟩ | hbuf
  · exact (hostWrite_register v hadm hlow).trans (congrArg _ (writeRegister_ignored _ v hreg))
  · refine (hostWrite_lanes v hadm (by omega)).trans (congrArg _ (writeLanes_ignored _ fun j hj => ?_))
    have halign := (admitted_iff.mp hadm).1
    rw [dataBytes_length] at hj
    refine not_isInputBufferAddress ?_
    cases n <;> simp only [Width.bytes, State.setSchedule_cfg] at hj halign ⊢ <;> omega

/-! ### Mixed widths (R62) -/

theorem writeLane_setSchedule (s : State) (rest : List Event) (a : Nat) (b : Byte) :
    writeLane (s.setSchedule rest) a b = (writeLane s a b).setSchedule rest := by
  by_cases h : isInputBufferAddress s.cfg a
  · rw [writeLane_of_inputBuffer (s := s.setSchedule rest) h, writeLane_of_inputBuffer h]
    cases hp : s.phase with
    | idle => rw [unlessBusy_of_idle hp, unlessBusy_of_idle (s := s.setSchedule rest) hp]; rfl
    | busy => rw [unlessBusy_of_busy hp, unlessBusy_of_busy (s := s.setSchedule rest) hp]; rfl
  · rw [writeLane_ignored (s.setSchedule rest) h, writeLane_ignored s h]

theorem writeLanes_setSchedule (s : State) (rest : List Event) (a : Nat) (bs : Bytes) :
    writeLanes (s.setSchedule rest) a bs = (writeLanes s a bs).setSchedule rest := by
  induction bs generalizing s a with
  | nil => rfl
  | cons b bs ih => rw [writeLanes, writeLanes, writeLane_setSchedule, ih]

/-- A scheduled 1-byte write above the register range is one byte lane. -/
theorem step_byteWrite (s : State) {addr : Addr} (b : Byte) (rest : List Event) (haddr : 0x00FF < addr.toNat) :
    step (s.setSchedule (.hostWrite addr .byte (b.setWidth 32) :: rest))
      = .next ((writeLane s addr.toNat b).setSchedule rest) := by
  have hadm : admitted addr .byte = true := admitted_iff.mpr ⟨Nat.mod_one _, fun h => absurd h (by omega)⟩
  have hdata : dataBytes .byte (b.setWidth 32) = [b] := by
    refine congrArg (· :: []) (BitVec.eq_of_getLsbD_eq fun k hk => ?_)
    rw [dataByte]
    simp [hk, show k < 32 by omega]
  rw [step_cons rfl]
  refine (hostWrite_lanes _ hadm haddr).trans (congrArg _ ?_)
  rw [hdata]
  exact writeLane_setSchedule s rest addr.toNat b

/-- One step of a run, of any machine. -/
theorem run_succ_of_step (M : Host.Core) {s t : M.State} (h : M.step s = .next t) (k : Nat) :
    M.run (k + 1) s = M.run k t := by
  rw [Host.Core.run, h]

theorem run_succ {s t : State} (h : step s = .next t) (k : Nat) :
    Host.Core.run Sys2Proof.core (k + 1) s = Host.Core.run Sys2Proof.core k t :=
  run_succ_of_step Sys2Proof.core h k

/-- Settles O17: both are the same four byte lanes, one after another. -/
theorem wordWriteIsFourByteWrites : Obligations.WordWriteIsFourByteWrites := by
  intro s addr v _ _ halign hlo hhi
  have hadm : admitted addr .word = true := admitted_iff.mpr ⟨halign, fun _ => rfl⟩
  have hsecond : (addr + 1).toNat = addr.toNat + 1 := by bv_omega
  have hthird : (addr + 2).toNat = addr.toNat + 2 := by bv_omega
  have hfourth : (addr + 3).toNat = addr.toNat + 3 := by bv_omega
  refine ⟨(writeLanes s addr.toNat (dataBytes .word v)).setSchedule [], ?_, ?_⟩
  · rw [step_cons rfl]
    exact (hostWrite_lanes v hadm (by exact hlo)).trans (congrArg _ (writeLanes_setSchedule s [] addr.toNat _))
  · rw [run_succ (step_byteWrite _ _ _ hlo), run_succ (step_byteWrite _ _ _ (by omega)),
      run_succ (step_byteWrite _ _ _ (by omega)), run_succ (step_byteWrite _ _ _ (by omega)), hsecond, hthird, hfourth]
    rfl

/-! ### Reads (R62, R64, R65, R68) -/

/-- Bit i of a little-endian word is bit i mod 8 of byte i / 8. -/
theorem getLsbD_littleEndian (bs : Bytes) (i : Nat) :
    (littleEndian bs).getLsbD i = (decide (i < 32) && (bs.getD (i / 8) 0).getLsbD (i % 8)) := by
  induction bs generalizing i with
  | nil => simp [littleEndian]
  | cons b bs ih =>
    rw [littleEndian, BitVec.getLsbD_or, BitVec.getLsbD_setWidth, BitVec.getLsbD_shiftLeft, ih]
    rcases Nat.lt_or_ge i 8 with hlow | hhigh
    · have hbyte : i / 8 = 0 := by omega
      simp [hlow, hbyte, Nat.mod_eq_of_lt hlow]
    · have hbyte : i / 8 = (i - 8) / 8 + 1 := by omega
      have hbit : (i - 8) % 8 = i % 8 := by omega
      have hnot : ¬i < 8 := by omega
      have hlt : i < 32 → i - 8 < 32 := by omega
      rw [hbyte, hbit, BitVec.getLsbD_of_ge b i hhigh]
      by_cases h32 : i < 32 <;> simp [hnot, h32, hlt]

/-- Data bits [8j+7 : 8j] are byte j. -/
theorem extractLsb'_littleEndian (bs : Bytes) {j : Nat} (hj : j < 4) :
    (littleEndian bs).extractLsb' (8 * j) 8 = bs.getD j 0 := by
  refine BitVec.eq_of_getLsbD_eq fun k hk => ?_
  have hbyte : (8 * j + k) / 8 = j := by omega
  have hbit : (8 * j + k) % 8 = k := by omega
  rw [BitVec.getLsbD_extractLsb', getLsbD_littleEndian, hbyte, hbit]
  simp [hk, show 8 * j + k < 32 by omega]

/-- A word is the little-endian word of its bytes. -/
theorem littleEndian_dataBytes (v : Word) : littleEndian (dataBytes .word v) = v := by
  refine BitVec.eq_of_getLsbD_eq fun i hi => ?_
  have hbyte : i / 8 < Width.word.bytes := by simp only [Width.bytes]; omega
  rw [getLsbD_littleEndian, dataBytes_getD v hbyte, BitVec.getLsbD_extractLsb', Nat.div_add_mod]
  simp [hi, Nat.mod_lt]

theorem readLane_of_stored {s : State} {a : Nat} {b : Byte} (lane : Nat) (hin : isBufferAddress s.cfg a)
    (hobuf : regionOf s.cfg a = .obuf → s.phase = .idle) (hb : s.byteAt a = some b) : readLane s a lane = b := by
  obtain ⟨hreg, hmap⟩ := hin
  unfold readLane
  cases hr : regionOf s.cfg a with
  | registers => exact absurd hr hreg
  | unmapped => exact absurd hr hmap
  | keybuf | ivbuf | ibuf => rw [hb]; rfl
  | obuf => simp only [hobuf hr, hb]; rfl

theorem readLane_unmapped {s : State} {a : Nat} (lane : Nat) (h : regionOf s.cfg a = .unmapped) : readLane s a lane = 0 := by
  rw [readLane, h]

/-- R60: OBUF begins at 0x8000, and the registers end below 0x0024. -/
theorem region_bounds (p : Params) (a : Nat) :
    (regionOf p a = .obuf → 0x8000 ≤ a) ∧ (regionOf p a = .registers → a < 0x0024) := by
  unfold regionOf obufBase
  split_ifs <;> simp <;> omega

theorem width_le_four (n : Width) : n.bytes ≤ 4 := by cases n <;> decide

/-- Settles O21: the lanes of a read above the register range, each by its region. -/
theorem bufferReadsReturnStoredBytes : Obligations.BufferReadsReturnStoredBytes := by
  intro s addr n rest hsched _ hadm haddr
  have hvalue : readValue s addr n = littleEndian ((List.range n.bytes).map fun j => readLane s (addr.toNat + j) j) :=
    if_neg (by omega)
  have hwidth := width_le_four n
  refine ⟨_, _, step_hostRead hsched hadm, rfl, fun j hj => ?_, fun j hj => ?_⟩
  · have hbeyond : n.bytes ≤ j / 8 := by omega
    rw [hvalue, getLsbD_littleEndian]
    simp [hbeyond]
  · have hlane : (readValue s addr n).extractLsb' (8 * j) 8 = readLane s (addr.toNat + j) j := by
      rw [hvalue, extractLsb'_littleEndian _ (by omega)]
      simp [hj]
    rw [hlane]
    obtain ⟨hobuf, hregs⟩ := region_bounds s.cfg (addr.toNat + j)
    refine ⟨fun b hidle hb hmap => readLane_of_stored j ⟨fun hr => ?_, hmap⟩ (fun hr => ?_) hb, readLane_unmapped j⟩
    · have := hregs hr; omega
    · exact hidle.resolve_left (by have := hobuf hr; omega)

theorem isBufferAddress_of_inputBuffer {p : Params} {a : Nat} (h : isInputBufferAddress p a) :
    isBufferAddress p a ∧ regionOf p a ≠ .obuf := by
  rcases h with h | h | h <;> simp [isBufferAddress, h]

/-- A word just written to an input buffer is read back. -/
theorem readValue_of_written {s : State} {addr : Addr} (v : Word) (hlegal : s.cfg.legal = true)
    (hadm : admitted addr .word = true)
    (h : (0x0100 ≤ addr.toNat ∧ addr.toNat < 0x0130) ∨ (0x4000 ≤ addr.toNat ∧ addr.toNat < 0x4000 + s.cfg.ibufSize)) :
    readValue (s.setMem (Memory.writeBytes s.mem addr.toNat (dataBytes .word v))) addr .word = v := by
  have hlanes : (List.range Width.word.bytes).map (fun j =>
      readLane (s.setMem (Memory.writeBytes s.mem addr.toNat (dataBytes .word v))) (addr.toNat + j) j) = dataBytes .word v := by
    refine List.map_congr_left fun j hj => ?_
    have hj := List.mem_range.mp hj
    obtain ⟨hin, hobuf⟩ := isBufferAddress_of_inputBuffer (aligned_access_in_range hlegal hadm h hj)
    refine readLane_of_stored j hin (fun hr => absurd hr hobuf) ?_
    rw [byteAt_def, State.setMem_mem, Memory.read_writeBytes, dataBytes_length, if_pos (by omega), Nat.add_sub_cancel_left,
      dataBytes_getD v hj]
    rfl
  rw [readValue, if_neg (by omega), hlanes, littleEndian_dataBytes]

/-- Settles O22: two steps, and `readValue_of_written`. -/
theorem writeThenReadReturnsTheValue : Obligations.WriteThenReadReturnsTheValue := by
  intro s addr v rest hidle hlegal hsched halign haddr
  have hadm : admitted addr .word = true := admitted_iff.mpr ⟨halign, fun _ => rfl⟩
  have hwrite := (step_cons hsched).trans (hostWrite_buffer_of_idle (s := s.setSchedule _) v hidle hlegal hadm haddr)
  have hread := step_hostRead (s := (s.setSchedule (.hostRead addr .word :: rest)).setMem
    (Memory.writeBytes s.mem addr.toNat (dataBytes .word v))) rfl hadm
  have hvalue := readValue_of_written (s := s.setSchedule (.hostRead addr .word :: rest)) v hlegal hadm haddr
  refine ⟨_, (run_succ hwrite 1).trans (run_succ hread 0), ?_, rfl⟩
  exact congrArg (· :: s.hostReads) hvalue

end Sys2Proof.Machine
end

section
/-! PROOFS. The invariant (`Inv`): every operation of a step keeps it, so every step does; and while BUSY no step but a
completion or a reset touches the word in flight or its inputs (spec/40_dispatch.md R108, R109). -/

namespace Sys2Proof.Machine

/-! ### Operations that touch nothing the invariant speaks of -/

theorem Inv.setSchedule {s : State} (h : Inv s) (v : List Event) : Inv (s.setSchedule v) := { h with }

theorem Inv.setIvDraw {s : State} (h : Inv s) (v : Option Draw) : Inv (s.setIvDraw v) := { h with }

theorem Inv.setHostReads {s : State} (h : Inv s) (v : List Word) : Inv (s.setHostReads v) := { h with }

theorem Inv.setFresh {s : State} (h : Inv s) (v : Nat) : Inv (s.setFresh v) := { h with }

theorem Inv.setKeyLen {s : State} (h : Inv s) (v : Word) : Inv (s.setKeyLen v) := { h with }

theorem Inv.setInLen {s : State} (h : Inv s) (v : Word) : Inv (s.setInLen v) := { h with }

/-! ### Host writes -/

theorem Inv.setCtrl {s : State} (h : Inv s) (v : Word) : Inv (s.setCtrl (ctrlStored v)) :=
  { h with ctrlReservedZero := ctrlStored_ctrlStored v }

/-- R26: BUSY_WR and the acknowledged DONE are no part of the invariant, but that DONE stays 0 while BUSY. -/
theorem Inv.setStatus {s : State} (h : Inv s) {w : Word} (hbusy : statusBusy w = statusBusy s.status)
    (hdone : statusDone s.status = false → statusDone w = false) (herr : statusErr w = statusErr s.status)
    (hcode : statusErrCode w = statusErrCode s.status) (hres : w &&& statusReserved = s.status &&& statusReserved) :
    Inv (s.setStatus w) :=
  { h with
    busyIsPhase := hbusy.trans h.busyIsPhase
    statusReservedZero := hres.trans h.statusReservedZero
    busyCleared := fun hp => by
      obtain ⟨hd, he, hc, ho⟩ := h.busyCleared hp
      exact ⟨hdone hd, herr.trans he, hcode.trans hc, ho⟩
    noErrorNoCode := fun he => hcode.trans (h.noErrorNoCode (herr.symm.trans he))
    errorHasCode := fun he => by
      obtain ⟨ho, e, h7, h8, hc⟩ := h.errorHasCode (herr.symm.trans he)
      exact ⟨ho, e, h7, h8, hcode.trans hc⟩ }

theorem Inv.noteBusyWrite {s : State} (h : Inv s) : Inv (noteBusyWrite s) :=
  h.setStatus (statusBusy_putBusyWr _ _) (fun hd => (statusDone_putBusyWr _ _).trans hd) (statusErr_putBusyWr _ _)
    (statusErrCode_putBusyWr _ _) (reserved_putBusyWr _ _)

theorem Inv.statusWrite {s : State} (h : Inv s) (v : Word) : Inv (s.setStatus (statusAfterWrite s.status v)) :=
  h.setStatus (statusBusy_afterWrite _ _) (fun hd => by rw [statusDone_afterWrite, hd]; rfl) (statusErr_afterWrite _ _)
    (statusErrCode_afterWrite _ _) (reserved_afterWrite _ _)

theorem Inv.accept {s : State} (h : Inv s) (w : Word) : Inv (accept s w) where
  legal := h.legal
  memWf := h.memWf
  memInBuffers := h.memInBuffers
  busyIsPhase := statusBusy_statusAccepted _
  statusReservedZero := (reserved_statusAccepted _).trans h.statusReservedZero
  ctrlReservedZero := h.ctrlReservedZero
  busyCleared _ := ⟨statusDone_statusAccepted _, statusErr_statusAccepted _, statusErrCode_statusAccepted _, rfl⟩
  noErrorNoCode _ := statusErrCode_statusAccepted _
  errorHasCode he := absurd ((statusErr_statusAccepted _).symm.trans he) Bool.false_ne_true
  outLenFits := Nat.zero_le _
  outputWritten j hj := absurd hj (Nat.not_lt_zero j)

theorem Inv.writeRegister {s : State} (h : Inv s) (offset : Nat) (v : Word) : Inv (writeRegister s offset v) := by
  rcases writeRegister_cases s offset v with he | ⟨-, he | he | he⟩ | ⟨-, he⟩ | he | he <;> rw [he]
  · exact h.setCtrl v
  · exact h.accept v
  · exact h.setKeyLen v
  · exact h.setInLen v
  · exact h.noteBusyWrite
  · exact h.statusWrite v
  · exact h

/-- A byte stored in a buffer leaves every written byte written. -/
theorem Inv.writeByte {s : State} (h : Inv s) {a : Nat} (ha : isBufferAddress s.cfg a) (b : Byte) :
    Inv (s.setMem (Memory.write s.mem a b)) :=
  { h with
    memWf := Memory.wf_write _ a b h.memWf
    memInBuffers := Memory.inBuffers_write _ _ a b h.memInBuffers ha
    outputWritten := fun j hj => by
      rw [byteAt_def, State.setMem_mem, Memory.read_write]
      split
      · rfl
      · exact h.outputWritten j hj }

theorem Inv.writeLane {s : State} (h : Inv s) (a : Nat) (b : Byte) : Inv (writeLane s a b) := by
  rcases writeLane_cases s a b with ⟨-, ha, -, he⟩ | ⟨-, he⟩ | he <;> rw [he]
  · exact h.writeByte ha b
  · exact h.noteBusyWrite
  · exact h

theorem Inv.writeLanes {s : State} (h : Inv s) (a : Nat) (bs : Bytes) : Inv (writeLanes s a bs) := by
  induction bs generalizing s a with
  | nil => exact h
  | cons b bs ih => exact ih (h.writeLane a b) (a + 1)

theorem Inv.hostWrite {s t : State} (h : Inv s) {addr : Addr} {n : Width} {v : Word}
    (hw : hostWrite s addr n v = .next t) : Inv t := by
  rcases hostWrite_cases s addr n v with ⟨-, -, he⟩ | ⟨-, -, he⟩ | ⟨-, he⟩ <;> rw [he] at hw <;> cases hw
  · exact h.writeRegister _ v
  · exact h.writeLanes _ _

theorem Inv.hostRead {s t : State} (h : Inv s) {addr : Addr} {n : Width} (hr : hostRead s addr n = .next t) : Inv t := by
  rcases hostRead_cases s addr n with ⟨-, he⟩ | ⟨-, he⟩ <;> rw [he] at hr <;> cases hr
  exact (h.setHostReads _).setFresh _

/-! ### Completions -/

theorem isBufferAddress_obuf {p : Params} (hlegal : p.legal = true) {j : Nat} (hj : j < p.obufSize) :
    isBufferAddress p (obufBase + j) := by
  simp only [Params.legal, Bool.and_eq_true, decide_eq_true_eq] at hlegal
  have hregion : regionOf p (obufBase + j) = .obuf := by
    unfold regionOf keybufBase keybufSize ivbufBase ivbufSize ibufBase obufBase
    rw [if_neg (by omega), if_neg (by omega), if_neg (by omega), if_neg (by omega), if_pos (by omega)]
  simp [isBufferAddress, hregion]

theorem Inv.finishOk {s : State} (h : Inv s) {out : Bytes} (hfits : out.length ≤ s.cfg.obufSize) : Inv (finishOk s out) := by
  have hlen : (BitVec.ofNat 32 out.length).toNat ≤ out.length := by
    rw [BitVec.toNat_ofNat]
    exact Nat.mod_le _ _
  exact {
    legal := h.legal
    memWf := Memory.wf_writeBytes out _ _ h.memWf
    memInBuffers := Memory.inBuffers_writeBytes _ out _ _ h.memInBuffers fun j hj =>
      isBufferAddress_obuf h.legal (Nat.lt_of_lt_of_le hj hfits)
    busyIsPhase := statusBusy_statusOk _
    statusReservedZero := (reserved_statusOk _).trans h.statusReservedZero
    ctrlReservedZero := h.ctrlReservedZero
    busyCleared := nofun
    noErrorNoCode := fun _ => statusErrCode_statusOk _
    errorHasCode := fun he => absurd ((statusErr_statusOk _).symm.trans he) Bool.false_ne_true
    outLenFits := Nat.le_trans hlen hfits
    outputWritten := fun j hj => by
      rw [(finishOk_completes s out hfits).output j (Nat.lt_of_lt_of_le hj hlen)]
      rfl }

theorem Inv.finishErr {s : State} (h : Inv s) {e : ErrorName} (he : e ≠ .cipherConstruction ∧ e ≠ .decompressError) :
    Inv (finishErr s e) where
  legal := h.legal
  memWf := Memory.wf_clear _ _ _ h.memWf
  memInBuffers := Memory.inBuffers_filter _ _ _ h.memInBuffers
  busyIsPhase := statusBusy_statusError _ e
  statusReservedZero := (reserved_statusError _ e).trans h.statusReservedZero
  ctrlReservedZero := h.ctrlReservedZero
  busyCleared := nofun
  noErrorNoCode hno := absurd (hno.symm.trans (statusErr_statusError _ e)) Bool.false_ne_true
  errorHasCode _ := ⟨rfl, e, he.1, he.2, statusErrCode_statusError _ e⟩
  outLenFits := Nat.zero_le _
  outputWritten j hj := absurd hj (Nat.not_lt_zero j)

theorem Inv.finish {s : State} (h : Inv s) {r : Result}
    (hr : ∀ e, r = .err e → e ≠ .cipherConstruction ∧ e ≠ .decompressError) : Inv (finish s r) := by
  rcases finish_cases s r with ⟨out, -, hfits, hf⟩ | ⟨out, -, -, hf⟩ | ⟨e, he, hf⟩ <;> rw [hf]
  · exact h.finishOk hfits
  · exact h.finishErr (by decide)
  · exact h.finishErr (hr e he)

theorem Inv.exec {i : Instr} {s t : State} (h : Inv s) (hexec : exec i s = .next t) : Inv t := by
  cases hexec ▸ exec_commandAnswer i s with
  | waits => exact h
  | tooLong =>
    refine h.finish fun e he => ?_
    cases he
    decide
  | finishes iv d =>
    exact (h.setIvDraw d).finish fun e he => not_reserved_of_mem (.inl (raisesOwn_commandResult i s iv _ e he))

theorem Inv.controllerTurn {s t : State} (h : Inv s) (hturn : controllerTurn s = .next t) : Inv t := by
  rcases controllerTurn_cases s with ⟨-, he⟩ | ⟨i, -, -, he⟩ | ⟨e, -, -, he⟩ <;> rw [he] at hturn
  · cases hturn; exact h
  · exact h.exec hturn
  · cases hturn; exact h.finishErr (by decide)

/-! ### Reset, and the two statements -/

theorem inv_resetWith {p : Params} (hlegal : p.legal = true) : Inv (State.resetWith p) where
  legal := hlegal
  memWf := rfl
  memInBuffers := rfl
  busyIsPhase := (by decide : statusBusy 0 = decide (Phase.idle = .busy))
  statusReservedZero := BitVec.zero_and
  ctrlReservedZero := BitVec.zero_and
  busyCleared := nofun
  noErrorNoCode _ := (by decide : statusErrCode 0 = 0)
  errorHasCode he := absurd he (by decide : ¬statusErr 0 = true)
  outLenFits := Nat.zero_le _
  outputWritten j hj := absurd hj (Nat.not_lt_zero j)

theorem Inv.resetStep {s : State} (h : Inv s) : Inv (resetStep s) :=
  ((((inv_resetWith h.legal).setIvDraw _).setSchedule _).setHostReads _).setFresh _

/-- Settles O8: the state after reset, with the default parameters. -/
theorem resetMeetsTheInvariant : Obligations.ResetMeetsTheInvariant := inv_resetWith (by decide)

/-- Settles O9: a step is the controller's turn or one event, and each keeps the invariant. -/
theorem stepKeepsTheInvariant : Obligations.StepKeepsTheInvariant := by
  intro s t h hstep
  cases hsched : s.schedule with
  | nil => exact h.controllerTurn ((step_nil hsched).symm.trans hstep)
  | cons e rest =>
    have hdeliver := (step_cons hsched).symm.trans hstep
    have h' := h.setSchedule rest
    cases e with
    | hostRead addr n => exact h'.hostRead hdeliver
    | hostWrite addr n v => exact h'.hostWrite hdeliver
    | offer d => cases hdeliver; exact h'.setIvDraw _
    | controller => exact h'.controllerTurn hdeliver
    | reset => cases hdeliver; exact h'.resetStep

/-! ### What stays fixed in flight -/

/-- The word in flight, its inputs, its IV selection, OBUF and OUT_LEN are as they were, and it is still in flight. -/
structure StaysInFlight (s t : State) : Prop where
  phase : t.phase = .busy
  cmd : t.cmd = s.cmd
  keyLen : t.keyLen = s.keyLen
  inLen : t.inLen = s.inLen
  curIvsel : t.curIvsel = s.curIvsel
  mem : t.mem = s.mem
  outLen : t.outLen = s.outLen
  cfg : t.cfg = s.cfg

section
variable {s : State} (hbusy : s.phase = .busy)
include hbusy

theorem staysInFlight_refl : StaysInFlight s s := ⟨hbusy, rfl, rfl, rfl, rfl, rfl, rfl, rfl⟩

theorem staysInFlight_noteBusyWrite : StaysInFlight s (noteBusyWrite s) := ⟨hbusy, rfl, rfl, rfl, rfl, rfl, rfl, rfl⟩

theorem staysInFlight_writeRegister (offset : Nat) (v : Word) : StaysInFlight s (writeRegister s offset v) := by
  rcases writeRegister_cases s offset v with he | ⟨hidle, -⟩ | ⟨-, he⟩ | he | he
  · exact he ▸ ⟨hbusy, rfl, rfl, rfl, rfl, rfl, rfl, rfl⟩
  · rw [hbusy] at hidle; cases hidle
  · exact he ▸ staysInFlight_noteBusyWrite hbusy
  · exact he ▸ ⟨hbusy, rfl, rfl, rfl, rfl, rfl, rfl, rfl⟩
  · exact he.symm ▸ staysInFlight_refl hbusy

/-- The lanes of a write while BUSY leave at most the note. -/
theorem staysInFlight_writeLanes (a : Nat) (bs : Bytes) : StaysInFlight s (writeLanes s a bs) := by
  induction bs generalizing a with
  | nil => exact staysInFlight_refl hbusy
  | cons b bs ih =>
    rw [writeLanes]
    rcases writeLane_cases s a b with ⟨hidle, -⟩ | ⟨-, he⟩ | he
    · rw [hbusy] at hidle; cases hidle
    · rw [he, writeLanes_noted hbusy]
      exact staysInFlight_noteBusyWrite hbusy
    · rw [he]
      exact ih (a + 1)

theorem staysInFlight_hostWrite {t : State} {addr : Addr} {n : Width} {v : Word} (hw : hostWrite s addr n v = .next t) :
    StaysInFlight s t := by
  rcases hostWrite_cases s addr n v with ⟨-, -, he⟩ | ⟨-, -, he⟩ | ⟨-, he⟩ <;> rw [he] at hw <;> cases hw
  · exact staysInFlight_writeRegister hbusy _ v
  · exact staysInFlight_writeLanes hbusy _ _

theorem staysInFlight_hostRead {t : State} {addr : Addr} {n : Width} (hr : hostRead s addr n = .next t) :
    StaysInFlight s t := by
  rcases hostRead_cases s addr n with ⟨-, he⟩ | ⟨-, he⟩ <;> rw [he] at hr <;> cases hr
  exact ⟨hbusy, rfl, rfl, rfl, rfl, rfl, rfl, rfl⟩

/-- The controller's turn either completes the command or waits and changes nothing. -/
theorem staysInFlight_controllerTurn {t : State} (hturn : controllerTurn s = .next t) (hstill : t.phase = .busy) :
    StaysInFlight s t := by
  have hanswer : Answer s (.next t) := by
    rcases controllerTurn_answer s with ⟨hidle, -⟩ | ⟨-, h⟩
    · rw [hbusy] at hidle; cases hidle
    · exact hturn ▸ h
  cases hanswer with
  | waits => exact staysInFlight_refl hbusy
  | finishes r => rw [finish_phase] at hstill; cases hstill
  | finishesWithDraw r => rw [finish_phase] at hstill; cases hstill

end

/-- Settles O58: each event other than a reset, and the wait of the controller, keeps the command and its inputs. -/
theorem inputsStayFixedInFlight : Obligations.InputsStayFixedInFlight := by
  intro s t hbusy hnoReset hstep hcase
  have hstays : StaysInFlight s t := by
    cases hsched : s.schedule with
    | nil =>
      refine staysInFlight_controllerTurn hbusy ((step_nil hsched).symm.trans hstep) (hcase.resolve_right ?_)
      simp [hsched]
    | cons e rest =>
      have hdeliver := (step_cons hsched).symm.trans hstep
      suffices h : StaysInFlight (s.setSchedule rest) t from { h with }
      cases e with
      | hostRead addr n => exact staysInFlight_hostRead (s := s.setSchedule rest) hbusy hdeliver
      | hostWrite addr n v => exact staysInFlight_hostWrite (s := s.setSchedule rest) hbusy hdeliver
      | offer d => cases hdeliver; exact ⟨hbusy, rfl, rfl, rfl, rfl, rfl, rfl, rfl⟩
      | controller =>
        refine staysInFlight_controllerTurn (s := s.setSchedule rest) hbusy hdeliver (hcase.resolve_right ?_)
        simp [hsched]
      | reset => exact absurd hsched (hnoReset rest)
  exact ⟨hstays.phase, hstays.cmd, hstays.keyLen, hstays.inLen, hstays.curIvsel, hstays.mem, hstays.outLen, hstays.cfg⟩

end Sys2Proof.Machine
end

section
/-! PROOFS. The envelopes (spec/42_cfb.md R152, spec/43_ecb.md R174): what CFB_ENC writes, and that ECB_DEC takes back what
ECB_ENC wrote. -/

namespace Sys2Proof.Machine

/-- Settles O36: CFB_ENC completes with its function's result, which has two characters per byte of the envelope. -/
theorem cfbEncWritesTheEnvelope : Obligations.CfbEncWritesTheEnvelope := by
  refine ⟨by decide, fun s p iv hin hiv => ?_⟩
  obtain ⟨t, hexec, hdone, hdraw⟩ := cfbEnc_completes hin hiv
  have hiv16 := hiv.length_eq
  have hlen := cfbEncrypt_length_of_feedback (fips197_enc_normalize_length (keyBuf s) (keyLength s)) p iv fun _ => hiv16
  exact ⟨t, _, hexec, hdone, hdraw, rfl, by rw [hexEncode_length, List.length_append, hiv16, hlen]⟩

/-- R174(a), of the commands' functions, for every lawful cipher. -/
theorem opEcbDec_opensOwnEnvelope {c : BlockCipher} (hlaw : c.Lawful) (kb : Bytes) (kl : Nat) (p : Bytes) :
    opEcbDec c kb kl (hexEncode (ecbEncrypt c (normalize kb kl) (pad p 16))) = .ok p := by
  have hk : isKeyLength (normalize kb kl).length = true := by rw [normalize_length]; decide
  obtain ⟨hpos, hle⟩ := padLength_bounds p.length (show 1 ≤ 16 by decide)
  have hpad := pad_length p 16
  have hwhole : (pad p 16).length % 16 = 0 := by omega
  obtain ⟨hlen, -, hback, -⟩ := ecbTransformsEachBlock c _ (pad p 16) hlaw hk hwhole
  have hne : ecbEncrypt c (normalize kb kl) (pad p 16) ≠ [] := by
    rw [← List.length_pos_iff, hlen]
    omega
  rw [opEcbDec_of_blocks c kb kl (hexDecode_hexEncode _) hne (by rw [hlen, hwhole]), hback]
  exact congrArg Result.ok (unpadLenient_append_replicate p hpos (by omega))

/-- Settles O42: both commands complete, and the shim leaves the second one's Ok result alone. -/
theorem ecbRoundTrip : Obligations.EcbRoundTrip := by
  intro s p typed typed' _ hin _ hobuf
  have hlen := hexEncode_ecbEncrypt_pad_length (keyBuf s) (keyLength s) p
  obtain ⟨t, hexec, hdone, -⟩ := ecbEnc_completes hin typed
  refine ⟨t, _, hexec, completesOk_of_fits hdone (by omega), fun u hinu hkey hkl hcfg => ?_⟩
  obtain ⟨v, hexecu, hdoneu, -⟩ := ecbDec_completes hinu typed'
  rw [hkey, keyLength, hkl, ← keyLength, opEcbDec_opensOwnEnvelope aesDecryptionInvertsEncryption, collapse_ok] at hdoneu
  exact ⟨v, hexecu, completesOk_of_fits hdoneu (by rw [hcfg]; omega)⟩

end Sys2Proof.Machine
end

section
/-! PROOFS. Commands that end in their checks before they read their input (spec/41_key_padding.md R133, spec/44_ctr.md R190,
R195, spec/45_codecs.md R213). -/

namespace Sys2Proof.Machine

/-- A command that needs no IV and reads no UNWRITTEN byte completes with its function's result on the filled input, and takes
no draw. -/
theorem checked_completes_of_filled {s : State} (hlen : s.inLen.toNat ≤ s.cfg.ibufSize) {reads : Bytes → Nat → Bool}
    (hread : ¬ReadsUnwritten s reads) (op : Bytes → Result) :
    ∃ t, checkInput s (completeWith s reads op) = .next t ∧ Completes s t (op (filledInput s)) ∧ t.ivDraw = s.ivDraw := by
  have hshort : inputTooLong s = false := decide_eq_false (Nat.not_lt.mpr hlen)
  rw [checkInput, if_neg (by simp [hshort]), completeWith, readInput_of_not_readsUnwritten hread]
  exact ⟨_, rfl, finish_completes s _, finish_ivDraw s _⟩

/-- R111: a function that reads nothing of this input. -/
theorem not_readsUnwritten_of_reads_nothing {s : State} {reads : Bytes → Nat → Bool}
    (h : ∀ j, j < inLength s → reads (filledInput s) j = false) : ¬ReadsUnwritten s reads := by
  rintro ⟨j, hj, hread, -⟩
  rw [h j hj] at hread
  cases hread

/-! ### PAD (R133) -/

theorem pad_completes {s : State} {p : Bytes} (h : InputIs s p) (b : Nat) :
    ∃ t, exec (.pad b) s = .next t ∧ Completes s t (opPad p b) ∧ t.ivDraw = s.ivDraw :=
  checked_completes_of_inputIs h (readsPad b) fun p => opPad p b

theorem opPad_zero (p : Bytes) : opPad p 0 = .err .invalidBlockSize := rfl

theorem opPad_of_pos (p : Bytes) {b : Nat} (hb : 1 ≤ b) : opPad p b = .ok (pad p b) := if_neg (by omega)

theorem encodeFields_pad : ∀ x : BitVec 8, encodeFields false x 0x02 = BitVec.ofNat 32 (256 * x.toNat + 2) := by decide

/-- R81, R82: PAD's word carries its block size in BLKSZ. -/
theorem decode_pad (b : Fin 256) : decode (BitVec.ofNat 32 (256 * b.val + 2)) = .ok (.pad b.val) := by
  refine Laws.decode_eq_ok_iff_encode.mpr ⟨decide_eq_true (by omega), (encodeFields_pad _).trans ?_⟩
  rw [toNat_padByte (by omega)]

/-- Settles O31: without a block size PAD reads nothing and fails; with one it completes with the padded input. -/
theorem padAppendsThePadValue : Obligations.PadAppendsThePadValue := by
  refine ⟨decode_pad, fun s hlen => ?_, fun s p b hin hlo _ => ?_⟩
  · have hnone := not_readsUnwritten_of_reads_nothing (s := s) (reads := readsPad 0) fun _ _ => rfl
    exact checked_completes_of_filled hlen hnone fun p => opPad p 0
  · obtain ⟨t, hexec, hdone, hdraw⟩ := pad_completes hin b
    obtain ⟨hpos, hle⟩ := padLength_bounds p.length hlo
    rw [opPad_of_pos p hlo] at hdone
    exact ⟨t, _, hexec, hdraw, hpos, hle, add_padLength_mod p.length hlo, hdone⟩

/-! ### HEX_DEC (R213, R217) -/

theorem hexVal_lt {c : Byte} {v : Nat} (h : hexVal c = some v) : v < 16 := by
  unfold hexVal at h
  split_ifs at h <;> cases h <;> omega

/-- Every character of a text that decodes is a digit, and two of them make a byte. -/
theorem hexPairs_spec : ∀ {t d : Bytes}, hexPairs t = some d → t.length = 2 * d.length ∧ ∀ j, j < d.length →
    ∃ hi lo, hexVal (t.getD (2 * j) 0) = some hi ∧ hexVal (t.getD (2 * j + 1) 0) = some lo
      ∧ (d.getD j 0).toNat = 16 * hi + lo
  | [], d, h => by cases h; exact ⟨rfl, fun j hj => absurd hj (Nat.not_lt_zero j)⟩
  | [_], d, h => by cases h
  | c :: e :: t, d, h => by
    obtain ⟨x, y, r, hx, hy, hr, rfl⟩ := hexPairs_cons_cons_eq_some h
    obtain ⟨hlen, hbytes⟩ := hexPairs_spec hr
    refine ⟨by simp only [List.length_cons, hlen]; omega, fun j hj => ?_⟩
    cases j with
    | zero =>
      have := hexVal_lt hx
      have := hexVal_lt hy
      refine ⟨x, y, hx, hy, ?_⟩
      rw [List.getD_cons_zero, BitVec.toNat_ofNat]
      omega
    | succ j => exact hbytes j (Nat.lt_of_succ_lt_succ hj)

theorem hexVal_ne_none_of_hexPairs {t d : Bytes} (h : hexPairs t = some d) {j : Nat} (hj : j < t.length) :
    hexVal (t.getD j 0) ≠ none := by
  obtain ⟨hlen, hbytes⟩ := hexPairs_spec h
  obtain ⟨hi, lo, hhi, hlo, -⟩ := hbytes (j / 2) (by omega)
  rcases Nat.mod_two_eq_zero_or_one j with heven | hodd
  · rw [show j = 2 * (j / 2) by omega, hhi]; exact Option.some_ne_none hi
  · rw [show j = 2 * (j / 2) + 1 by omega, hlo]; exact Option.some_ne_none lo

theorem hexDecode_of_not_digit {t : Bytes} (h : ∃ j, j < t.length ∧ hexVal (t.getD j 0) = none) :
    hexDecode t = .err .decodeError := by
  obtain ⟨j, hj, hbad⟩ := h
  rcases hexDecode_cases t with herr | ⟨out, hok⟩
  · exact herr
  · exact absurd hbad (hexVal_ne_none_of_hexPairs (hexDecode_eq_ok hok) hj)

theorem exists_hexPairs_of_digits : ∀ {t : Bytes}, t.length % 2 = 0 →
    (∀ j, j < t.length → hexVal (t.getD j 0) ≠ none) → ∃ d, hexPairs t = some d
  | [], _, _ => ⟨[], rfl⟩
  | [_], h, _ => by simp at h
  | c :: e :: t, h, hdigits => by
    obtain ⟨x, hx⟩ := Option.ne_none_iff_exists'.mp (hdigits 0 (by simp))
    obtain ⟨y, hy⟩ := Option.ne_none_iff_exists'.mp (hdigits 1 (by simp))
    obtain ⟨d, hd⟩ := exists_hexPairs_of_digits (t := t) (by simp only [List.length_cons] at h; omega) fun j hj =>
      hdigits (j + 2) (by simpa using hj)
    rw [List.getD_cons_zero] at hx
    rw [List.getD_cons_succ, List.getD_cons_zero] at hy
    exact ⟨_, by rw [hexPairs, hx, hy, hd]⟩

theorem hexDec_completes {s : State} {p : Bytes} (h : InputIs s p) :
    ∃ t, exec .hexDec s = .next t ∧ Completes s t (hexDecode p) ∧ t.ivDraw = s.ivDraw :=
  checked_completes_of_inputIs h readsHex opHexDec

theorem hexDecode_of_odd {t : Bytes} (h : t.length % 2 = 1) : hexDecode t = .err .decodeError := if_pos (by omega)

/-- Settles O50: an odd length ends HEX_DEC before it reads; else it completes with what `hexPairs` makes of the digits. -/
theorem hexDecReadsTwoDigitsPerByte : Obligations.HexDecReadsTwoDigitsPerByte := by
  refine ⟨by decide, fun s hlen hodd => ?_, fun s p hin => ⟨fun hbad => ?_, fun heven hdigits => ?_⟩⟩
  · have hnone := not_readsUnwritten_of_reads_nothing (s := s) (reads := readsHex) fun j _ => by
      rw [readsHex, filledInput_length, inLength, hodd]
      rfl
    obtain ⟨t, hexec, hdone, hdraw⟩ := checked_completes_of_filled hlen hnone opHexDec
    rw [opHexDec, hexDecode_of_odd (by rwa [filledInput_length])] at hdone
    exact ⟨t, hexec, hdone, hdraw⟩
  · obtain ⟨t, hexec, hdone, hdraw⟩ := hexDec_completes hin
    rw [hexDecode_of_not_digit hbad] at hdone
    exact ⟨t, hexec, hdone, hdraw⟩
  · obtain ⟨t, hexec, hdone, hdraw⟩ := hexDec_completes hin
    obtain ⟨out, hout⟩ := exists_hexPairs_of_digits heven hdigits
    obtain ⟨hlen, hbytes⟩ := hexPairs_spec hout
    rw [hexDecode, if_neg (by omega), hout] at hdone
    exact ⟨t, out, hexec, hdone, hdraw, by omega, hbytes⟩

end Sys2Proof.Machine
end

section
/-! PROOFS. The CTR commands (spec/44_ctr.md R193, R194, R195): both check the key length and then emptiness before anything
else; past the checks CTR_ENC writes the envelope that CTR_DEC opens. -/

namespace Sys2Proof.Machine

/-! ### The checks (R190, R193, R194) -/

theorem isKeyLength_keyLength_iff {s : State} :
    isKeyLength (keyLength s) = true ↔ s.keyLen = 16 ∨ s.keyLen = 24 ∨ s.keyLen = 32 := by
  simp only [isKeyLength, keyLength, Bool.or_eq_true, beq_iff_eq, or_assoc, ← BitVec.toNat_inj]
  rfl

section
variable {kb : Bytes} {kl : Nat}

theorem ctrKey_of_invalid (h : isKeyLength kl = false) : ctrKey kb kl = none := by
  rw [ctrKey, h]
  rfl

theorem ctrKey_of_valid (h : isKeyLength kl = true) : ctrKey kb kl = some (kb.take kl) := by
  rw [ctrKey, h]
  rfl

theorem opCtrEnc_of_invalidKey (c : BlockCipher) (h : isKeyLength kl = false) (p iv : Bytes) :
    opCtrEnc c kb kl p iv = .err .invalidKeyLength := by
  rw [opCtrEnc, ctrKey_of_invalid h]

theorem opCtrEnc_of_empty (c : BlockCipher) (h : isKeyLength kl = true) {p : Bytes} (hp : p.length = 0) (iv : Bytes) :
    opCtrEnc c kb kl p iv = .err .emptyPlaintext := by
  rw [opCtrEnc, ctrKey_of_valid h]
  exact if_pos hp

theorem opCtrEnc_of_plaintext (c : BlockCipher) (h : isKeyLength kl = true) {p : Bytes} (hp : p.length ≠ 0) (iv : Bytes) :
    opCtrEnc c kb kl p iv = .ok (b64Encode (iv ++ ctrXcrypt c (kb.take kl) iv (pad p 16))) := by
  rw [opCtrEnc, ctrKey_of_valid h]
  exact if_neg hp

theorem opCtrDec_of_invalidKey (q : Params) (c : BlockCipher) (h : isKeyLength kl = false) (t : Bytes) :
    opCtrDec q c kb kl t = .err .invalidKeyLength := by
  rw [opCtrDec, ctrKey_of_invalid h]

theorem opCtrDec_of_empty (q : Params) (c : BlockCipher) (h : isKeyLength kl = true) {t : Bytes} (ht : t.length = 0) :
    opCtrDec q c kb kl t = .err .emptyInput := by
  rw [opCtrDec, ctrKey_of_valid h]
  exact if_pos ht

variable {q : Params} {t : Bytes}

theorem opCtrDec_of_malformed (c : BlockCipher) (h : isKeyLength kl = true) (ht : t.length ≠ 0) {e : ErrorName}
    (hdec : b64Decode q t = .err e) : opCtrDec q c kb kl t = .err e := by
  rw [opCtrDec, ctrKey_of_valid h]
  simp only [if_neg ht, hdec]

theorem opCtrDec_of_short (c : BlockCipher) (h : isKeyLength kl = true) (ht : t.length ≠ 0) {x : Bytes}
    (hdec : b64Decode q t = .ok x) (hx : x.length ≤ 16) : opCtrDec q c kb kl t = .err .tooShort := by
  rw [opCtrDec, ctrKey_of_valid h]
  simp only [if_neg ht, hdec, if_pos hx]

theorem opCtrDec_of_envelope (c : BlockCipher) (h : isKeyLength kl = true) (ht : t.length ≠ 0) {iv body : Bytes}
    (hdec : b64Decode q t = .ok (iv ++ body)) (hiv : iv.length = 16) (hbody : body ≠ []) :
    opCtrDec q c kb kl t = unpadStrict (ctrXcrypt c (kb.take kl) iv body) := by
  have hlong : ¬(iv ++ body).length ≤ 16 := by
    have := List.length_pos_iff.mpr hbody
    rw [List.length_append]
    omega
  rw [opCtrDec, ctrKey_of_valid h]
  simp only [if_neg ht, hdec, if_neg hlong, List.take_left' hiv, List.drop_left' hiv]

end

theorem ctrEncReadsIv_iff {s : State} :
    ctrEncReadsIv s = true ↔ isKeyLength (keyLength s) = true ∧ inLength s ≠ 0 := by
  simp [ctrEncReadsIv]

/-- R111: CTR_ENC that ends in its checks reads no input and no IV. -/
theorem ctrEnc_completes_of_check {s : State} (hlen : s.inLen.toNat ≤ s.cfg.ibufSize) (h : ctrEncReadsIv s = false) :
    ∃ t, exec .ctrEnc s = .next t
      ∧ Completes s t (opCtrEnc fips197 (keyBuf s) (keyLength s) (filledInput s) []) ∧ t.ivDraw = s.ivDraw := by
  change ∃ t, checkInput s _ = .next t ∧ _
  rw [h]
  exact checked_completes_of_filled hlen (not_readsUnwritten_of_reads_nothing fun _ _ => rfl)
    fun p => opCtrEnc fips197 (keyBuf s) (keyLength s) p []

/-- CTR_DEC that ends in its checks reads no input. -/
theorem ctrDec_completes_of_check {s : State} (hlen : s.inLen.toNat ≤ s.cfg.ibufSize)
    (h : isKeyLength (keyLength s) = false ∨ inLength s = 0) :
    ∃ t, exec .ctrDec s = .next t
      ∧ Completes s t (opCtrDec s.cfg fips197 (keyBuf s) (keyLength s) (filledInput s)) ∧ t.ivDraw = s.ivDraw := by
  refine checked_completes_of_filled hlen (not_readsUnwritten_of_reads_nothing fun j hj => ?_)
    (opCtrDec s.cfg fips197 (keyBuf s) (keyLength s))
  rcases h with hkey | hempty
  · rw [readsCtrDec, hkey]
    rfl
  · omega

/-- Settles O44: both commands end in their checks on the filled input, of which they read nothing. -/
theorem ctrChecksKeyLengthThenEmptiness : Obligations.CtrChecksKeyLengthThenEmptiness := by
  intro s hlen
  rw [← isKeyLength_keyLength_iff, Bool.not_eq_true]
  refine ⟨fun hkey => ?_, fun hkey hempty => ?_⟩
  · have hcheck : ctrEncReadsIv s = false := by rw [ctrEncReadsIv, hkey]; rfl
    have henc := ctrEnc_completes_of_check hlen hcheck
    have hdec := ctrDec_completes_of_check hlen (.inl hkey)
    rw [opCtrEnc_of_invalidKey _ hkey] at henc
    rw [opCtrDec_of_invalidKey _ _ hkey] at hdec
    exact ⟨henc, hdec⟩
  · have hzero : inLength s = 0 := congrArg BitVec.toNat hempty
    have hnil : (filledInput s).length = 0 := by rw [filledInput_length, hzero]
    have hcheck : ctrEncReadsIv s = false := by simp [ctrEncReadsIv, hzero]
    have henc := ctrEnc_completes_of_check hlen hcheck
    have hdec := ctrDec_completes_of_check hlen (.inr hzero)
    rw [opCtrEnc_of_empty _ hkey hnil] at henc
    rw [opCtrDec_of_empty _ _ hkey hnil] at hdec
    exact ⟨henc, hdec⟩

/-! ### The envelope (R193, R194) -/

theorem ctrEncReadsIv_of_inputIs {s : State} {p : Bytes} (hin : InputIs s p) (hkey : isKeyLength (keyLength s) = true)
    (hp : p ≠ []) : ctrEncReadsIv s = true := by
  rw [ctrEncReadsIv_iff, hin.1]
  exact ⟨hkey, mt List.length_eq_zero_iff.mp hp⟩

theorem exec_ctrEnc_of_readsIv {s : State} (h : ctrEncReadsIv s = true) :
    exec .ctrEnc s = checkInput s (withIv s fun t iv =>
      completeWith t readsAll fun p => opCtrEnc fips197 (keyBuf t) (keyLength t) p iv) := by
  change checkInput s _ = _
  rw [if_pos h]

/-- CTR_ENC past its checks. -/
theorem ctrEnc_completes {s : State} {p iv : Bytes} (hin : InputIs s p) (hiv : IvIs s iv)
    (hkey : isKeyLength (keyLength s) = true) (hp : p ≠ []) :
    ∃ t, exec .ctrEnc s = .next t
      ∧ Completes s t (.ok (b64Encode (iv ++ ctrXcrypt fips197 ((keyBuf s).take (keyLength s)) iv (pad p 16))))
      ∧ t.ivDraw = if s.curIvsel then s.ivDraw else none := by
  rw [exec_ctrEnc_of_readsIv (ctrEncReadsIv_of_inputIs hin hkey hp),
    ← opCtrEnc_of_plaintext fips197 hkey (mt List.length_eq_zero_iff.mp hp)]
  exact checkedWithIv_completes hin hiv readsAll (fun t iv p => opCtrEnc fips197 (keyBuf t) (keyLength t) p iv) rfl

theorem ctrDec_completes {s : State} {p : Bytes} (h : InputIs s p) :
    ∃ t, exec .ctrDec s = .next t ∧ Completes s t (opCtrDec s.cfg fips197 (keyBuf s) (keyLength s) p)
      ∧ t.ivDraw = s.ivDraw :=
  checked_completes_of_inputIs h (readsCtrDec s.cfg (keyLength s)) (opCtrDec s.cfg fips197 (keyBuf s) (keyLength s))

/-- A raw key of valid length gives keystream blocks of 16 bytes. -/
theorem fips197_enc_rawKey_length {s : State} (hkey : isKeyLength (keyLength s) = true) (b : Bytes) (hb : b.length = 16) :
    (fips197.enc ((keyBuf s).take (keyLength s)) b).length = 16 := by
  have hlen : 4 ≤ keyLength s := four_le_of_isKeyLength hkey
  exact fips197_enc_length (by rw [List.length_take, keyBuf_length]; omega) hb

/-- R193's OUT_LEN. -/
theorem ctrEnvelope_length {s : State} (hkey : isKeyLength (keyLength s) = true) (p : Bytes) {iv : Bytes}
    (hiv : iv.length = 16) :
    (b64Encode (iv ++ ctrXcrypt fips197 ((keyBuf s).take (keyLength s)) iv (pad p 16))).length
      = 4 * ((16 + 16 * (p.length / 16 + 1) + 2) / 3) := by
  have hpad : (pad p 16).length = 16 * (p.length / 16 + 1) := by
    rw [pad_length]
    omega
  rw [b64Encode_length, List.length_append, hiv, ctrXcrypt_length (fips197_enc_rawKey_length hkey) _ hiv, hpad]

/-- Settles O45: CTR_ENC past its checks completes with the envelope. -/
theorem ctrEncWritesTheEnvelope : Obligations.CtrEncWritesTheEnvelope := by
  refine ⟨by decide, fun s p iv hin hiv hkl hp => ?_⟩
  have hkey := isKeyLength_keyLength_iff.mpr hkl
  obtain ⟨t, hexec, hdone, hdraw⟩ := ctrEnc_completes hin hiv hkey hp
  exact ⟨t, _, hexec, hdone, hdraw, rfl, ctrEnvelope_length hkey p hiv.length_eq⟩

/-- Settles O46: CTR_DEC completes with what `opCtrDec` answers in each of R194's cases past the checks. -/
theorem ctrDecOpensTheEnvelope : Obligations.CtrDecOpensTheEnvelope := by
  refine ⟨by decide, fun s p hin hkl hp => ?_⟩
  have hkey := isKeyLength_keyLength_iff.mpr hkl
  have hne : p.length ≠ 0 := mt List.length_eq_zero_iff.mp hp
  obtain ⟨t, hexec, hdone, hdraw⟩ := ctrDec_completes hin
  refine ⟨fun herr => ⟨t, hexec, ?_, hdraw⟩, fun x hx hshort => ⟨t, hexec, ?_, hdraw⟩,
    fun iv body hx hiv hbody => ⟨t, hexec, hdraw, ?_⟩⟩
  · rwa [opCtrDec_of_malformed _ hkey hne herr] at hdone
  · rwa [opCtrDec_of_short _ hkey hne hx hshort] at hdone
  · rwa [opCtrDec_of_envelope _ hkey hne hx hiv hbody] at hdone

/-! ### The round trip (R195) -/

/-- R195(a), of the commands' functions. -/
theorem opCtrDec_opensOwnEnvelope (q : Params) {s : State} (hkey : isKeyLength (keyLength s) = true) (p : Bytes) {iv : Bytes}
    (hiv : iv.length = 16) :
    opCtrDec q fips197 (keyBuf s) (keyLength s)
      (b64Encode (iv ++ ctrXcrypt fips197 ((keyBuf s).take (keyLength s)) iv (pad p 16))) = .ok p := by
  obtain ⟨hpos, hle⟩ := padLength_bounds p.length (show 1 ≤ 16 by decide)
  have henc := fips197_enc_rawKey_length hkey
  have hbody : ctrXcrypt fips197 ((keyBuf s).take (keyLength s)) iv (pad p 16) ≠ [] := by
    rw [← List.length_pos_iff, ctrXcrypt_length henc _ hiv, pad_length]
    omega
  have htext := ctrEnvelope_length hkey p hiv
  rw [opCtrDec_of_envelope _ hkey (by omega) (b64Decode_b64Encode q _) hiv hbody, ctrXcrypt_ctrXcrypt henc _ hiv]
  exact unpadStrict_append_replicate p hpos hle

/-- Settles O47: both commands complete, and `opCtrDec_opensOwnEnvelope` says what the second writes. -/
theorem ctrRoundTrip : Obligations.CtrRoundTrip := by
  intro s p iv _ hin hiv hkl hp hibuf hobuf
  have hkey := isKeyLength_keyLength_iff.mpr hkl
  have hlen := ctrEnvelope_length hkey p hiv.length_eq
  obtain ⟨t, hexec, hdone, -⟩ := ctrEnc_completes hin hiv hkey hp
  refine ⟨t, _, hexec, completesOk_of_fits hdone (by omega), fun u hinu hkeyu hklu hcfg => ?_⟩
  obtain ⟨v, hexecu, hdoneu, -⟩ := ctrDec_completes hinu
  rw [hkeyu, keyLength, hklu, ← keyLength, opCtrDec_opensOwnEnvelope _ hkey p hiv.length_eq] at hdoneu
  exact ⟨v, hexecu, completesOk_of_fits hdoneu (by rw [hcfg]; omega)⟩

end Sys2Proof.Machine
end

section
/-! PROOFS. Waiting for a draw (spec/40_dispatch.md R102, R105) and the fault of an UNWRITTEN input byte
(spec/70_reset_and_hazards.md R274), command by command. -/

namespace Sys2Proof.Machine

/-! ### The wait -/

theorem withIv_of_noDraw {s : State} (hsel : s.curIvsel = false) (hdraw : s.ivDraw = none)
    (k : State → Bytes → Host.Outcome State Fault Refusal) : withIv s k = .next s := by
  rw [withIv, if_neg (by simp [hsel]), hdraw]

/-- Whole groups encode on their own (R214). -/
theorem b64Encode_append_of_whole {d : Bytes} (hd : d.length % 3 = 0) (e : Bytes) :
    b64Encode (d ++ e) = b64Encode d ++ b64Encode e := by
  induction d using b64Encode.induct with
  | case1 => rfl
  | case2 | case3 => simp at hd
  | case4 a b c t ih =>
    have ht : t.length % 3 = 0 := by simp only [List.length_cons] at hd; omega
    simp only [b64Encode, List.cons_append, ih ht, List.nil_append]

/-- The envelope of CTR_ENC begins with 15 bytes of its IV, five whole groups. -/
theorem take_b64Encode_append {iv : Bytes} (hiv : iv.length = 16) (e : Bytes) :
    (b64Encode (iv ++ e)).take 20 = b64Encode (iv.take 15) := by
  have hlen : (iv.take 15).length = 15 := by rw [List.length_take]; omega
  rw [← List.take_append_drop 15 iv, List.append_assoc, b64Encode_append_of_whole (by omega),
    List.take_left' (by rw [b64Encode_length, hlen]), List.take_left' hlen]

theorem ivIs_of_offer {s : State} (hsel : s.curIvsel = false) (d : Draw) : IvIs (s.setIvDraw (some d)) d.toList :=
  .inr ⟨hsel, d, rfl, rfl⟩

/-- Settles O57: with no draw on offer `withIv` waits; once one is offered it is the IV, which the envelope begins with. -/
theorem completionWaitsForTheDraw : Obligations.CompletionWaitsForTheDraw := by
  refine ⟨fun s d rest hsched => ⟨_, step_cons hsched, rfl, rfl⟩, fun s p d hin hsel hdraw => ?_⟩
  have hin' := inputIs_setIvDraw hin (some d)
  have hiv := ivIs_of_offer hsel d
  have hwait : ∀ k, checkInput s (withIv s k) = .next s := fun k =>
    (checkInput_of_inputIs hin _).trans (withIv_of_noDraw hsel hdraw k)
  refine ⟨hwait _, ?cfbOffered, fun hkl hp => ⟨?ctrWaits, ?ctrOffered⟩⟩
  case cfbOffered =>
    obtain ⟨t, hexec, hdone, -⟩ := cfbEnc_completes hin' hiv
    exact ⟨t, _, hexec, completes_of_setIvDraw hdone, take_hexEncode_append _ (by rw [d.length_toList])⟩
  case ctrWaits =>
    rw [exec_ctrEnc_of_readsIv (ctrEncReadsIv_of_inputIs hin (isKeyLength_keyLength_iff.mpr hkl) hp), hwait]
  case ctrOffered =>
    obtain ⟨t, hexec, hdone, -⟩ := ctrEnc_completes hin' hiv (isKeyLength_keyLength_iff.mpr hkl) hp
    exact ⟨t, _, hexec, completes_of_setIvDraw hdone, take_b64Encode_append d.length_toList _⟩

/-! ### The fault -/

theorem completeWith_of_readsUnwritten {s : State} {reads : Bytes → Nat → Bool} (h : ReadsUnwritten s reads)
    (op : Bytes → Result) : completeWith s reads op = .fault .unwrittenInput := by
  rw [completeWith, readInput_eq_none_iff.mpr h]

/-- With an IV from either source a command faults as one that needs none. -/
theorem withIv_of_readsUnwritten {s : State} {iv : Bytes} (hiv : IvIs s iv) {reads : Bytes → Nat → Bool}
    (h : ReadsUnwritten s reads) (op : State → Bytes → Bytes → Result) :
    (withIv s fun t iv => completeWith t reads (op t iv)) = .fault .unwrittenInput := by
  rcases hiv with ⟨hsel, -⟩ | ⟨hsel, d, hdraw, -⟩
  · rw [withIv_of_curIvsel hsel, completeWith_of_readsUnwritten h]
  · rw [withIv_of_draw hsel hdraw, completeWith_of_readsUnwritten (s := s.setIvDraw none) h]

/-- Settles O56: each of these commands reads every byte of P, the UNWRITTEN one among them. -/
theorem unwrittenInputByteFaults : Obligations.UnwrittenInputByteFaults := by
  intro s j hj hlen hnone
  have hshort : inputTooLong s = false := decide_eq_false (Nat.not_lt.mpr hlen)
  have hcheck : ∀ o, checkInput s o = o := fun o => if_neg (by simp [hshort])
  have hreads : ∀ reads, reads (filledInput s) j = true → ReadsUnwritten s reads := fun _ h => ⟨j, hj, h, hnone⟩
  have hplain : ∀ reads op, reads (filledInput s) j = true →
      checkInput s (completeWith s reads op) = .fault .unwrittenInput := fun reads op h =>
    (hcheck _).trans (completeWith_of_readsUnwritten (hreads reads h) op)
  have hb64 : s.cfg.b64SkipCrlf = true → readsB64 s.cfg (filledInput s) j = true := fun h => by rw [readsB64, h]; rfl
  refine ⟨hplain _ _ rfl, hplain _ _ rfl, fun _ => hplain _ _ rfl, fun b hb => hplain _ _ (decide_eq_true (by omega)),
    fun iv hiv => ⟨?_, fun hkl => ?_⟩, fun hskip => ⟨hplain _ _ (hb64 hskip), fun hkl => hplain _ _ ?_⟩⟩
  · exact (hcheck _).trans (withIv_of_readsUnwritten hiv (hreads readsAll rfl) _)
  · have hiv' : ctrEncReadsIv s = true := ctrEncReadsIv_iff.mpr ⟨isKeyLength_keyLength_iff.mpr hkl, Nat.ne_zero_of_lt hj⟩
    rw [exec_ctrEnc_of_readsIv hiv', hcheck]
    exact withIv_of_readsUnwritten hiv (hreads readsAll rfl) fun t iv p => opCtrEnc fips197 (keyBuf t) (keyLength t) p iv
  · rw [readsCtrDec, isKeyLength_keyLength_iff.mpr hkl, hb64 hskip]
    rfl

end Sys2Proof.Machine
end

section
/-! PROOFS. How long an output can be (spec/00_scope.md R4): at most twice the input and 32 bytes, or the input and 255
bytes. -/

namespace Sys2Proof.Machine

/-- An Ok result has at most `n` bytes. -/
def Result.AtMost (n : Nat) (r : Result) : Prop := ∀ out, r = .ok out → out.length ≤ n

theorem atMost_ok {n : Nat} {out : Bytes} (h : out.length ≤ n) : (Result.ok out).AtMost n := by
  rintro _ ⟨⟩
  exact h

theorem atMost_err (n : Nat) (e : ErrorName) : (Result.err e).AtMost n := nofun

theorem atMost_unpadStrict (p : Bytes) : (unpadStrict p).AtMost p.length := by
  intro q hq
  obtain ⟨n, -, -, rfl⟩ := unpadStrict_eq_ok_iff.mp hq
  rw [List.length_append]
  omega

theorem unpadLenient_length_le (p : Bytes) : (unpadLenient p).length ≤ p.length := by
  cases h : p.getLast? with
  | none => rw [unpadLenient, h]; exact Nat.zero_le _
  | some x =>
    rw [unpadLenient_of_getLast? h]
    split
    · exact le_rfl
    · exact List.length_take_le' _ _

theorem hexDecode_length {t x : Bytes} (h : hexDecode t = .ok x) : t.length = 2 * x.length :=
  (hexPairs_spec (hexDecode_eq_ok h)).1

theorem b64Decode_length_le {q : Params} {t x : Bytes} (h : b64Decode q t = .ok x) : x.length ≤ t.length := by
  have htext : (b64Text q.b64SkipCrlf t).length ≤ t.length := by
    cases hskip : q.b64SkipCrlf with
    | false => exact le_rfl
    | true => exact List.length_filter_le _ _
  have hlen := (b64Decode_eq_ok_iff.mp h).1
  omega

theorem ctrXcrypt_length_le (c : BlockCipher) (k iv d : Bytes) : (ctrXcrypt c k iv d).length ≤ d.length := by
  rw [ctrXcrypt, xorPrefix, List.length_zipWith]
  exact Nat.min_le_left _ _

section
variable (kb : Bytes) (kl : Nat)

theorem atMost_opCfbDec (t : Bytes) : (opCfbDec fips197 kb kl t).AtMost t.length := by
  rcases hexDecode_cases t with h | ⟨x, h⟩
  · rw [opCfbDec_of_err _ _ _ h]; exact atMost_err _ _
  rcases Nat.lt_or_ge x.length 16 with hshort | hlong
  · rw [opCfbDec_of_short _ _ _ h hshort]; exact atMost_err _ _
  · have hlen := hexDecode_length h
    have hiv : (x.take 16).length = 16 := by rw [List.length_take]; omega
    have hbody := cfbDecrypt_length_of_feedback (fips197_enc_normalize_length kb kl) (x.drop 16) (x.take 16) fun _ => hiv
    rw [opCfbDec_of_envelope (iv := x.take 16) (body := x.drop 16) _ _ _ (by rwa [List.take_append_drop]) hiv]
    refine atMost_ok ?_
    rw [hbody, List.length_drop]
    omega

theorem atMost_opEcbDec (t : Bytes) : (opEcbDec fips197 kb kl t).AtMost t.length := by
  rcases hexDecode_cases t with h | ⟨x, h⟩
  · rw [opEcbDec_of_err _ _ _ h]; exact atMost_err _ _
  by_cases hempty : x = []
  · rw [opEcbDec_of_empty _ _ _ (hempty ▸ h)]; exact atMost_err _ _
  by_cases hwhole : x.length % 16 = 0
  · have hlen := hexDecode_length h
    have hk : isKeyLength (normalize kb kl).length = true := by rw [normalize_length]; decide
    obtain ⟨-, hdec, -, -⟩ := ecbTransformsEachBlock _ _ x aesDecryptionInvertsEncryption hk hwhole
    have htrim := unpadLenient_length_le (ecbDecrypt fips197 (normalize kb kl) x)
    rw [opEcbDec_of_blocks _ _ _ h hempty hwhole]
    exact atMost_ok (by omega)
  · rw [opEcbDec_of_partial _ _ _ h hwhole]; exact atMost_err _ _

theorem atMost_collapse (typed : Bool) {n : Nat} {r : Result} (h : r.AtMost n) : (collapse typed r).AtMost n := by
  cases r with
  | ok out => exact h
  | err e =>
    rw [collapse]
    split
    · exact atMost_ok (Nat.zero_le n)
    · exact h

theorem atMost_opCtrEnc (p : Bytes) {iv : Bytes} (hiv : iv.length ≤ 16) :
    (opCtrEnc fips197 kb kl p iv).AtMost (4 * ((16 + 16 * (p.length / 16 + 1) + 2) / 3)) := by
  cases hkey : isKeyLength kl with
  | false => rw [opCtrEnc_of_invalidKey _ hkey]; exact atMost_err _ _
  | true =>
    by_cases hp : p.length = 0
    · rw [opCtrEnc_of_empty _ hkey hp]; exact atMost_err _ _
    · have hbody := ctrXcrypt_length_le fips197 (kb.take kl) iv (pad p 16)
      rw [pad_length] at hbody
      rw [opCtrEnc_of_plaintext _ hkey hp]
      refine atMost_ok ?_
      rw [b64Encode_length, List.length_append]
      omega

theorem atMost_opCtrDec (q : Params) (t : Bytes) : (opCtrDec q fips197 kb kl t).AtMost t.length := by
  cases hkey : isKeyLength kl with
  | false => rw [opCtrDec_of_invalidKey _ _ hkey]; exact atMost_err _ _
  | true =>
    by_cases ht : t.length = 0
    · rw [opCtrDec_of_empty _ _ hkey ht]; exact atMost_err _ _
    rcases b64Decode_cases q t with h | ⟨x, h⟩
    · rw [opCtrDec_of_malformed _ hkey ht h]; exact atMost_err _ _
    rcases Nat.lt_or_ge 16 x.length with hlong | hshort
    · have hlen := b64Decode_length_le h
      have hiv : (x.take 16).length = 16 := by rw [List.length_take]; omega
      have hbody : x.drop 16 ≠ [] := by rw [← List.length_pos_iff, List.length_drop]; omega
      have hxcrypt := ctrXcrypt_length_le fips197 (kb.take kl) (x.take 16) (x.drop 16)
      rw [opCtrDec_of_envelope (iv := x.take 16) (body := x.drop 16) _ hkey ht (by rwa [List.take_append_drop]) hiv hbody]
      intro q hq
      have hq := atMost_unpadStrict _ q hq
      rw [List.length_drop] at hxcrypt
      omega
    · rw [opCtrDec_of_short _ hkey ht h hshort]; exact atMost_err _ _

end

/-- R4's two bounds cover every command. -/
theorem commandResult_length {i : Instr} (hwf : i.wellFormed = true) {s : State} {iv p out : Bytes}
    (hiv : iv.length = 16 ∨ (needsIv i s = false ∧ iv = [])) (h : commandResult i s iv p = .ok out) :
    out.length ≤ 2 * p.length + 32 ∨ out.length ≤ p.length + 255 := by
  have hiv16 : iv.length ≤ 16 := by
    rcases hiv with h16 | ⟨-, rfl⟩
    · exact h16.le
    · exact Nat.zero_le _
  cases i with
  | keynorm =>
    cases h
    rw [normalize_length]
    omega
  | pad b =>
    have hb : b ≤ 255 := of_decide_eq_true hwf
    refine .inr ?_
    rcases Nat.eq_zero_or_pos b with rfl | hpos
    · cases h
    · cases (opPad_of_pos p hpos).symm.trans h
      rw [pad_length]
      omega
  | unpadS => have := atMost_unpadStrict p out h; omega
  | unpadL =>
    cases h
    have := unpadLenient_length_le p
    omega
  | cfbEnc =>
    have hiv16 : iv.length = 16 := hiv.resolve_right fun ⟨hno, _⟩ => Bool.noConfusion hno
    cases h
    rw [hexEncode_length, List.length_append,
      cfbEncrypt_length_of_feedback (fips197_enc_normalize_length _ _) p iv fun _ => hiv16]
    omega
  | cfbDec => have := atMost_opCfbDec _ _ p out h; omega
  | ecbEnc typed =>
    cases h
    rw [hexEncode_ecbEncrypt_pad_length]
    omega
  | ecbDec typed => have := atMost_collapse typed (atMost_opEcbDec _ _ p) out h; omega
  | ctrEnc => have := atMost_opCtrEnc _ _ p hiv16 out h; omega
  | ctrDec => have := atMost_opCtrDec _ _ _ p out h; omega
  | hexEnc =>
    cases h
    rw [hexEncode_length]
    omega
  | hexDec => have := hexDecode_length h; omega
  | b64Enc =>
    cases h
    rw [b64Encode_length]
    omega
  | b64Dec => have := b64Decode_length_le h; omega

/-- Settles O28: an output within R4's bounds fits OBUF, and the commands' functions raise no OUTPUT_OVERFLOW of their own. -/
theorem largeEnoughObufNeverOverflows : Obligations.LargeEnoughObufNeverOverflows := by
  intro i s t hwf _ hbusy hlen htwice hplus hexec hover
  cases hexec ▸ exec_commandAnswer i s with
  | waits =>
    have hidle := hover.phase
    rw [hbusy] at hidle
    cases hidle
  | tooLong _ hlong => exact absurd (of_decide_eq_true hlong) (Nat.not_lt.mpr hlen)
  | finishes iv d _ _ hiv =>
    rcases finish_ends (s.setIvDraw d) (commandResult i s iv (filledInput s)) with ⟨out, hok⟩ | ⟨e, herr, hwhy⟩
    · exact not_completesErr_of_completesOk (completesOk_of_setIvDraw hok) _ hover
    · obtain rfl := completesErr_unique hover (completesErr_of_setIvDraw herr)
      rcases hwhy with hown | ⟨out, hout, hlong, -⟩
      · have hmem := raisesOwn_commandResult i s iv _ _ hown
        exact absurd hmem (by decide)
      · have hbound := commandResult_length hwf hiv hout
        have hin : inLength s ≤ s.cfg.ibufSize := hlen
        rw [filledInput_length] at hbound
        rw [State.setIvDraw_cfg] at hlong
        omega

end Sys2Proof.Machine
end

section
/-! PROOFS. No result rests on an UNWRITTEN byte (spec/70_reset_and_hazards.md R274): two inputs that agree on what a command
reads of the first have the same result, and it reads no more of the second. -/

namespace Sys2Proof.Machine

/-! ### Reading up to the first byte that fails -/

/-- Every byte of `p` from place `lo` to before place `n` passes `ok`. -/
def ScanOk (ok : Byte → Bool) (lo : Nat) (p : Bytes) (n : Nat) : Prop := ∀ i, lo ≤ i → i < n → ok (p.getD i 0) = true

theorem ScanOk.mono {ok : Byte → Bool} {lo : Nat} {p : Bytes} {n m : Nat} (h : ScanOk ok lo p n) (hm : m ≤ n) :
    ScanOk ok lo p m := fun i hlo hi => h i hlo (Nat.lt_of_lt_of_le hi hm)

theorem all_drop_take_iff {ok : Byte → Bool} {p : Bytes} {lo n : Nat} (hn : n ≤ p.length) :
    ((p.take n).drop lo).all ok = true ↔ ScanOk ok lo p n := by
  have hlen : ((p.take n).drop lo).length = n - lo := by rw [List.length_drop, List.length_take, Nat.min_eq_left hn]
  have hget : ∀ k (hk : k < ((p.take n).drop lo).length), ((p.take n).drop lo)[k] = p.getD (lo + k) 0 := by
    intro k hk
    have hlt : lo + k < p.length := by omega
    rw [List.getElem_drop, List.getElem_take, List.getD_eq_getElem _ _ hlt]
  rw [List.all_eq_true, List.forall_mem_iff_getElem]
  constructor
  · intro h i hlo hi
    have := h (i - lo) (by omega)
    rwa [hget, Nat.add_sub_cancel' hlo] at this
  · intro h k hk
    rw [hget]
    exact h (lo + k) (Nat.le_add_right lo k) (by omega)

theorem all_take_iff {ok : Byte → Bool} {p : Bytes} {n : Nat} (hn : n ≤ p.length) :
    (p.take n).all ok = true ↔ ScanOk ok 0 p n := by
  rw [← all_drop_take_iff hn, List.drop_zero]

theorem all_drop_iff {ok : Byte → Bool} {p : Bytes} {lo : Nat} :
    (p.drop lo).all ok = true ↔ ScanOk ok lo p p.length := by
  rw [← all_drop_take_iff le_rfl, List.take_length]

/-- Two inputs agree at each place that is reached: the bytes before its group of `g` all pass. -/
def ScanAgrees (g : Nat) (ok : Byte → Bool) (lo : Nat) (p p' : Bytes) : Prop :=
  ∀ j, j < p.length → lo ≤ j → ScanOk ok lo p (g * (j / g)) → p'.getD j 0 = p.getD j 0

/-- A scan comes equally far on both. -/
theorem ScanAgrees.scanOk_iff {g : Nat} {ok : Byte → Bool} {lo : Nat} {p p' : Bytes} (h : ScanAgrees g ok lo p p') {n : Nat}
    (hn : n ≤ p.length) : ScanOk ok lo p' n ↔ ScanOk ok lo p n := by
  have hsame : ∀ i, lo ≤ i → i < n → ScanOk ok lo p i → p'.getD i 0 = p.getD i 0 := fun i hlo hi hok =>
    h i (by omega) hlo (hok.mono (Nat.mul_div_le i g))
  constructor
  · intro h' i
    induction i using Nat.strong_induction_on with
    | _ i ih =>
      intro hlo hi
      have hok : ScanOk ok lo p i := fun k hk hki => ih k hki hk (by omega)
      rw [← hsame i hlo hi hok]
      exact h' i hlo hi
  · intro hok i hlo hi
    rw [hsame i hlo hi (hok.mono (by omega))]
    exact hok i hlo hi

/-! ### What is read determines the result -/

/-- `p'` is as long as `p` and has its bytes wherever `reads` reads `p`. -/
structure AgreesOnReads (reads : Bytes → Nat → Bool) (p p' : Bytes) : Prop where
  length : p'.length = p.length
  bytes : ∀ j, j < p.length → reads p j = true → p'.getD j 0 = p.getD j 0

/-- On inputs of length `n`, the bytes that `reads` reads determine the result of `op` and what is read. -/
def ReadsDetermine (n : Nat) (reads : Bytes → Nat → Bool) (op : Bytes → Result) : Prop :=
  ∀ p p', p.length = n → AgreesOnReads reads p p' →
    op p' = op p ∧ ∀ j, j < p.length → reads p' j = true → reads p j = true

/-- Where everything is read, the inputs are the same. -/
theorem AgreesOnReads.eq_of_reads_all {reads : Bytes → Nat → Bool} {p p' : Bytes} (h : AgreesOnReads reads p p')
    (hall : ∀ j, j < p.length → reads p j = true) : p' = p := by
  refine List.ext_getElem h.length fun j hj' hj => ?_
  have := h.bytes j hj (hall j hj)
  rwa [List.getD_eq_getElem _ _ hj, List.getD_eq_getElem _ _ hj'] at this

theorem readsDetermine_of_reads_all {n : Nat} {reads : Bytes → Nat → Bool}
    (hall : ∀ p j, p.length = n → j < p.length → reads p j = true) (op : Bytes → Result) :
    ReadsDetermine n reads op := by
  intro p p' hn h
  obtain rfl := h.eq_of_reads_all fun j hj => hall p j hn hj
  exact ⟨rfl, fun _ _ hread => hread⟩

/-- A function that reads nothing, and whose result rests on the length alone. -/
theorem readsDetermine_of_reads_nothing {n : Nat} {reads : Bytes → Nat → Bool} {op : Bytes → Result}
    (hnone : ∀ p j, reads p j = false) (hop : ∀ p p', p.length = n → p'.length = n → op p' = op p) :
    ReadsDetermine n reads op :=
  fun p p' hn h => ⟨hop p p' hn (h.length.trans hn), fun j _ hread => by rw [hnone] at hread; cases hread⟩

/-- What is computed from a determined result is determined. -/
theorem ReadsDetermine.of_result {n : Nat} {reads : Bytes → Nat → Bool} {op op' : Bytes → Result}
    (h : ReadsDetermine n reads op) (hop : ∀ p p', p.length = n → p'.length = n → op p' = op p → op' p' = op' p) :
    ReadsDetermine n reads op' := fun p p' hn hagree =>
  ⟨hop p p' hn (hagree.length.trans hn) (h p p' hn hagree).1, (h p p' hn hagree).2⟩

/-! ### Hex (R213) -/

theorem readsHex_iff {t : Bytes} {j : Nat} (hj : j < t.length) :
    readsHex t j = true ↔ t.length % 2 = 0 ∧ ScanOk (fun c => (hexVal c).isSome) 0 t j := by
  rw [readsHex, Bool.and_eq_true, decide_eq_true_eq, all_take_iff hj.le]

/-- A text with a byte that is no digit. -/
theorem hexDecode_of_not_scanOk {t : Bytes} (h : ¬ScanOk (fun c => (hexVal c).isSome) 0 t t.length) :
    hexDecode t = .err .decodeError := by
  refine hexDecode_of_not_digit ?_
  simpa [ScanOk] using h

theorem readsDetermine_hexDecode (n : Nat) : ReadsDetermine n readsHex hexDecode := by
  intro p p' _ h
  rcases Nat.mod_two_eq_zero_or_one p.length with heven | hodd
  · have hscan : ScanAgrees 1 (fun c => (hexVal c).isSome) 0 p p' := fun j hj _ hok =>
      h.bytes j hj ((readsHex_iff hj).mpr ⟨heven, by simpa using hok⟩)
    refine ⟨?_, fun j hj hread => ?_⟩
    · by_cases hall : ScanOk (fun c => (hexVal c).isSome) 0 p p.length
      · rw [h.eq_of_reads_all fun j hj => (readsHex_iff hj).mpr ⟨heven, hall.mono hj.le⟩]
      · have hbad : ¬ScanOk (fun c => (hexVal c).isSome) 0 p' p'.length := by
          rwa [h.length, hscan.scanOk_iff le_rfl]
        rw [hexDecode_of_not_scanOk hall, hexDecode_of_not_scanOk hbad]
    · obtain ⟨-, hok⟩ := (readsHex_iff (h.length.symm ▸ hj)).mp hread
      exact (readsHex_iff hj).mpr ⟨heven, (hscan.scanOk_iff hj.le).mp hok⟩
  · have hodd' : p'.length % 2 = 1 := by rw [h.length, hodd]
    refine ⟨by rw [hexDecode_of_odd hodd, hexDecode_of_odd hodd'], fun j hj hread => ?_⟩
    have := ((readsHex_iff (h.length.symm ▸ hj)).mp hread).1
    omega

theorem readsDetermine_opCfbDec (n : Nat) (c : BlockCipher) (kb : Bytes) (kl : Nat) :
    ReadsDetermine n readsHex (opCfbDec c kb kl) :=
  (readsDetermine_hexDecode n).of_result fun p p' _ _ h => by rw [opCfbDec, h, ← opCfbDec]

theorem readsDetermine_opEcbDec (n : Nat) (c : BlockCipher) (kb : Bytes) (kl : Nat) :
    ReadsDetermine n readsHex (opEcbDec c kb kl) :=
  (readsDetermine_hexDecode n).of_result fun p p' _ _ h => by rw [opEcbDec, h, ← opEcbDec]

/-! ### Base64 (R215) -/

theorem readsB64_iff {q : Params} (hskip : q.b64SkipCrlf = false) {t : Bytes} {j : Nat} (hj : j < t.length) :
    readsB64 q t j = true ↔ t.length % 4 = 0 ∧ ScanOk (fun c => (b64Val c).isSome) 0 t (4 * (j / 4)) := by
  rw [readsB64, hskip, Bool.false_or, Bool.and_eq_true, decide_eq_true_eq, all_take_iff (by omega)]

/-- Before its last quantum the canonical text has digits alone. -/
theorem b64Val_b64Encode_isSome {d : Bytes} {j : Nat} (hj : j + 4 < (b64Encode d).length) :
    (b64Val ((b64Encode d).getD j 0)).isSome = true := by
  rw [b64Encode_length] at hj
  rw [← Nat.div_add_mod j 4, b64Encode_getD (Nat.mod_lt j (by decide)) (by omega), if_pos (by omega),
    b64Val_b64Digit (Nat.mod_lt _ (by decide))]
  rfl

/-- A text that decodes has digits alone before its last quantum. -/
theorem scanOk_of_b64Decode {q : Params} (hskip : q.b64SkipCrlf = false) {t d : Bytes} (h : b64Decode q t = .ok d) :
    ScanOk (fun c => (b64Val c).isSome) 0 t (t.length - 4) := by
  rw [b64Decode_eq_ok_iff, hskip, b64Text_false] at h
  obtain ⟨hlen, hagrees⟩ := h
  intro j _ hj
  rcases hagrees j (by omega) with heq | ⟨-, ⟨hshort, hplace⟩, -⟩
  · rw [heq]
    exact b64Val_b64Encode_isSome (by rw [b64Encode_length]; omega)
  · have := Nat.mod_lt d.length (show 3 > 0 by decide)
    omega

theorem b64Decode_of_not_scanOk {q : Params} (hskip : q.b64SkipCrlf = false) {t : Bytes}
    (h : ¬ScanOk (fun c => (b64Val c).isSome) 0 t (t.length - 4)) : b64Decode q t = .err .decodeError := by
  rcases b64Decode_cases q t with herr | ⟨d, hd⟩
  · exact herr
  · exact absurd (scanOk_of_b64Decode hskip hd) h

theorem b64Decode_of_partial {q : Params} (hskip : q.b64SkipCrlf = false) {t : Bytes} (h : t.length % 4 ≠ 0) :
    b64Decode q t = .err .decodeError := by
  rw [b64Decode, hskip, b64Text_false, if_pos h]

theorem readsDetermine_b64Decode (n : Nat) (q : Params) : ReadsDetermine n (readsB64 q) (b64Decode q) := by
  cases hskip : q.b64SkipCrlf with
  | true => exact readsDetermine_of_reads_all (fun _ _ _ _ => by rw [readsB64, hskip]; rfl) _
  | false =>
    intro p p' _ h
    by_cases hwhole : p.length % 4 = 0
    · have hscan : ScanAgrees 4 (fun c => (b64Val c).isSome) 0 p p' := fun j hj _ hok =>
        h.bytes j hj ((readsB64_iff hskip hj).mpr ⟨hwhole, hok⟩)
      refine ⟨?_, fun j hj hread => ?_⟩
      · by_cases hall : ScanOk (fun c => (b64Val c).isSome) 0 p (p.length - 4)
        · rw [h.eq_of_reads_all fun j hj => (readsB64_iff hskip hj).mpr ⟨hwhole, hall.mono (by omega)⟩]
        · have hbad : ¬ScanOk (fun c => (b64Val c).isSome) 0 p' (p'.length - 4) := by
            rwa [h.length, hscan.scanOk_iff (Nat.sub_le _ 4)]
          rw [b64Decode_of_not_scanOk hskip hall, b64Decode_of_not_scanOk hskip hbad]
      · obtain ⟨-, hok⟩ := (readsB64_iff hskip (h.length.symm ▸ hj)).mp hread
        exact (readsB64_iff hskip hj).mpr ⟨hwhole, (hscan.scanOk_iff (by omega)).mp hok⟩
    · have hwhole' : p'.length % 4 ≠ 0 := by rwa [h.length]
      refine ⟨by rw [b64Decode_of_partial hskip hwhole, b64Decode_of_partial hskip hwhole'], fun j hj hread => ?_⟩
      exact absurd ((readsB64_iff hskip (h.length.symm ▸ hj)).mp hread).1 hwhole'

theorem readsDetermine_opCtrDec (n : Nat) (q : Params) (c : BlockCipher) (kb : Bytes) (kl : Nat) :
    ReadsDetermine n (readsCtrDec q kl) (opCtrDec q c kb kl) := by
  cases hkey : isKeyLength kl with
  | false =>
    refine readsDetermine_of_reads_nothing (fun _ _ => by rw [readsCtrDec, hkey]; rfl) fun p p' _ _ => ?_
    rw [opCtrDec_of_invalidKey _ _ hkey, opCtrDec_of_invalidKey _ _ hkey]
  | true =>
    have hreads : readsCtrDec q kl = readsB64 q := by
      funext t j
      rw [readsCtrDec, hkey, Bool.true_and]
    rw [hreads]
    refine (readsDetermine_b64Decode n q).of_result fun p p' hp hp' h => ?_
    rw [opCtrDec, h, hp', ← hp, ← opCtrDec]

/-! ### The unpads (R134, R136) -/

theorem length_pos_of_getLast? {p : Bytes} {x : Byte} (h : p.getLast? = some x) : 0 < p.length := by
  rw [List.length_pos_iff]
  rintro rfl
  cases h

/-- Where the last byte is read, the inputs have the same one. -/
theorem AgreesOnReads.getLast?_eq {reads : Bytes → Nat → Bool} {p p' : Bytes} (h : AgreesOnReads reads p p') {x : Byte}
    (hlast : p.getLast? = some x) (hread : reads p (p.length - 1) = true) : p'.getLast? = some x := by
  have hpos := length_pos_of_getLast? hlast
  have hbyte := h.bytes (p.length - 1) (by omega) hread
  have hlen := h.length
  rw [List.getD_eq_getElem _ _ (by omega), List.getD_eq_getElem _ _ (by omega)] at hbyte
  rw [← hlast, List.getLast?_eq_getElem?, List.getLast?_eq_getElem?, hlen, List.getElem?_eq_getElem (by omega),
    List.getElem?_eq_getElem (by omega), hbyte]

/-- The empty input agrees with no other. -/
theorem AgreesOnReads.eq_of_getLast?_eq_none {reads : Bytes → Nat → Bool} {p p' : Bytes} (h : AgreesOnReads reads p p')
    (hlast : p.getLast? = none) : p' = p :=
  h.eq_of_reads_all fun j hj => by
    rw [List.getLast?_eq_none_iff.mp hlast] at hj
    exact absurd hj (Nat.not_lt_zero j)

theorem readsUnpadL_iff {p : Bytes} {x : Byte} (hlast : p.getLast? = some x) {j : Nat} :
    readsUnpadL p j = true ↔ j + 1 = p.length ∨ p.length < x.toNat ∨ j < p.length - x.toNat := by
  rw [readsUnpadL, hlast]
  simp only [Bool.or_eq_true, decide_eq_true_eq, or_assoc]

theorem readsDetermine_unpadLenient (n : Nat) : ReadsDetermine n readsUnpadL opUnpadL := by
  intro p p' _ h
  cases hlast : p.getLast? with
  | none =>
    obtain rfl := h.eq_of_getLast?_eq_none hlast
    exact ⟨rfl, fun _ _ hread => hread⟩
  | some x =>
    have hpos := length_pos_of_getLast? hlast
    have hlast' := h.getLast?_eq hlast ((readsUnpadL_iff hlast).mpr (.inl (by omega)))
    refine ⟨congrArg Result.ok ?_, fun j _ hread => ?_⟩
    · rw [unpadLenient_of_getLast? hlast, unpadLenient_of_getLast? hlast', h.length]
      split
      · next hlong => exact h.eq_of_reads_all fun j _ => (readsUnpadL_iff hlast).mpr (.inr (.inl hlong))
      · refine List.ext_getElem (by simp [h.length]) fun j hj' hj => ?_
        have hlt : j < p.length - x.toNat := by rw [List.length_take] at hj; omega
        have hbyte := h.bytes j (by omega) ((readsUnpadL_iff hlast).mpr (.inr (.inr hlt)))
        have hlen := h.length
        rw [List.getD_eq_getElem _ _ (by omega), List.getD_eq_getElem _ _ (by omega)] at hbyte
        rwa [List.getElem_take, List.getElem_take]
    · rwa [readsUnpadL_iff hlast', h.length, ← readsUnpadL_iff hlast] at hread

/-- A last byte that can be a pad length (R134). -/
def IsPadLength (p : Bytes) (x : Byte) : Prop := x.toNat ≠ 0 ∧ x.toNat ≤ p.length ∧ x.toNat ≤ 16

theorem readsUnpadS_iff {p : Bytes} {x : Byte} (hlast : p.getLast? = some x) {j : Nat} (hj : j < p.length) :
    readsUnpadS p j = true ↔ j + 1 = p.length ∨ IsPadLength p x
      ∧ (ScanOk (fun y => decide (y = x)) (p.length - x.toNat) p p.length
        ∨ p.length - x.toNat ≤ j ∧ ScanOk (fun y => decide (y = x)) (p.length - x.toNat) p j) := by
  rw [readsUnpadS, hlast]
  simp only [Bool.or_eq_true, Bool.and_eq_true, decide_eq_true_eq, all_drop_iff, all_drop_take_iff hj.le, IsPadLength]

theorem unpadStrict_of_not_pad {p : Bytes} {x : Byte} (hlast : p.getLast? = some x)
    (h : ¬(IsPadLength p x ∧ ScanOk (fun y => decide (y = x)) (p.length - x.toNat) p p.length)) :
    unpadStrict p = .err .invalidPadding := by
  rw [← all_drop_iff] at h
  rw [unpadStrict, hlast]
  simp only
  split_ifs with hzero hshort hceil hall
  · rfl
  · rfl
  · rfl
  · exact absurd ⟨⟨hzero, by omega, by omega⟩, hall⟩ h
  · rfl

theorem readsDetermine_unpadStrict (n : Nat) : ReadsDetermine n readsUnpadS opUnpadS := by
  intro p p' _ h
  cases hlast : p.getLast? with
  | none =>
    obtain rfl := h.eq_of_getLast?_eq_none hlast
    exact ⟨rfl, fun _ _ hread => hread⟩
  | some x =>
    have hpos := length_pos_of_getLast? hlast
    have hlast' := h.getLast?_eq hlast ((readsUnpadS_iff hlast (by omega)).mpr (.inl (by omega)))
    by_cases hpad : IsPadLength p x ∧ ScanOk (fun y => decide (y = x)) (p.length - x.toNat) p p.length
    · obtain ⟨hform, hall⟩ := hpad
      obtain rfl := h.eq_of_reads_all fun j hj => (readsUnpadS_iff hlast hj).mpr (.inr ⟨hform, .inl hall⟩)
      exact ⟨rfl, fun _ _ hread => hread⟩
    · have hscan : IsPadLength p x → ScanAgrees 1 (fun y => decide (y = x)) (p.length - x.toNat) p p' :=
        fun hform j hj hlo hok => h.bytes j hj
          ((readsUnpadS_iff hlast hj).mpr (.inr ⟨hform, .inr ⟨hlo, by simpa using hok⟩⟩))
      have hform_iff : IsPadLength p' x ↔ IsPadLength p x := by rw [IsPadLength, h.length, ← IsPadLength]
      have hpad' : ¬(IsPadLength p' x ∧ ScanOk (fun y => decide (y = x)) (p'.length - x.toNat) p' p'.length) := by
        rintro ⟨hform, hall⟩
        have hform := hform_iff.mp hform
        rw [h.length, (hscan hform).scanOk_iff le_rfl] at hall
        exact hpad ⟨hform, hall⟩
      refine ⟨?_, fun j hj hread => ?_⟩
      · rw [opUnpadS, opUnpadS, unpadStrict_of_not_pad hlast hpad, unpadStrict_of_not_pad hlast' hpad']
      · rw [readsUnpadS_iff hlast' (h.length.symm ▸ hj)] at hread
        rw [readsUnpadS_iff hlast hj]
        rcases hread with hend | ⟨hform, hall | ⟨hlo, hok⟩⟩
        · exact .inl (hend.trans h.length)
        · exact absurd ⟨hform, hall⟩ hpad'
        · have hform := hform_iff.mp hform
          rw [h.length] at hlo hok
          exact .inr ⟨hform, .inr ⟨hlo, ((hscan hform).scanOk_iff hj.le).mp hok⟩⟩

end Sys2Proof.Machine
end

section
/-! PROOFS. Noninterference of the UNWRITTEN bytes (spec/93_implementation_defined.md U3): the frames around a command's
function carry a completion over to every state in which those bytes hold values. -/

namespace Sys2Proof.Machine

/-! ### Every command reads what its result rests on -/

theorem readsDetermine_pad (n b : Nat) : ReadsDetermine n (readsPad b) fun p => opPad p b := by
  rcases Nat.eq_zero_or_pos b with rfl | hpos
  · exact readsDetermine_of_reads_nothing (fun _ _ => rfl) fun p p' _ _ => by rw [opPad_zero, opPad_zero]
  · exact readsDetermine_of_reads_all (fun _ _ _ _ => decide_eq_true (by omega)) _

theorem readsDetermine_ctrEnc (s : State) (iv : Bytes) :
    ReadsDetermine (inLength s) (commandReads .ctrEnc s) (commandResult .ctrEnc s iv) := by
  cases hiv : ctrEncReadsIv s with
  | true =>
    refine readsDetermine_of_reads_all (fun p j _ _ => ?_) _
    rw [commandReads, hiv]
    rfl
  | false =>
    refine readsDetermine_of_reads_nothing (fun p j => by rw [commandReads, hiv]; rfl) fun p p' hp hp' => ?_
    change opCtrEnc _ _ _ _ _ = opCtrEnc _ _ _ _ _
    cases hkey : isKeyLength (keyLength s) with
    | false => rw [opCtrEnc_of_invalidKey _ hkey, opCtrEnc_of_invalidKey _ hkey]
    | true =>
      have hzero : inLength s = 0 := by simpa [ctrEncReadsIv, hkey] using hiv
      rw [opCtrEnc_of_empty _ hkey (hp.trans hzero), opCtrEnc_of_empty _ hkey (hp'.trans hzero)]

theorem readsDetermine_command (i : Instr) (s : State) (iv : Bytes) :
    ReadsDetermine (inLength s) (commandReads i s) (commandResult i s iv) := by
  cases i with
  | keynorm => exact readsDetermine_of_reads_nothing (fun _ _ => rfl) fun _ _ _ _ => rfl
  | pad b => exact readsDetermine_pad _ b
  | unpadS => exact readsDetermine_unpadStrict _
  | unpadL => exact readsDetermine_unpadLenient _
  | cfbEnc | ecbEnc | hexEnc | b64Enc => exact readsDetermine_of_reads_all (fun _ _ _ _ => rfl) _
  | cfbDec => exact readsDetermine_opCfbDec _ _ _ _
  | ecbDec typed => exact (readsDetermine_opEcbDec _ _ _ _).of_result fun _ _ _ _ h => congrArg (collapse typed) h
  | ctrEnc => exact readsDetermine_ctrEnc s iv
  | ctrDec => exact readsDetermine_opCtrDec _ _ _ _ _
  | hexDec => exact readsDetermine_hexDecode _
  | b64Dec => exact readsDetermine_b64Decode _ _

theorem commandReads_setIvDraw (i : Instr) (s : State) (d : Option Draw) :
    commandReads i (s.setIvDraw d) = commandReads i s := by
  cases i <;> rfl

/-! ### The states that differ in UNWRITTEN bytes of IBUF -/

/-- `u` is `s` with values in some UNWRITTEN bytes of IBUF. -/
structure FillsIn (s u : State) : Prop where
  others : u = s.setMem u.mem
  written : ∀ a b, s.byteAt a = some b → u.byteAt a = some b
  outside : ∀ a, ¬(ibufBase ≤ a ∧ a < ibufBase + s.cfg.ibufSize) → u.byteAt a = s.byteAt a
  legal : s.cfg.legal = true

/-- What a finished command shows of its result: OUT_LEN, STATUS, the phase and OBUF. -/
structure ShowsSame (t v : State) : Prop where
  outLen : v.outLen = t.outLen
  status : v.status = t.status
  phase : v.phase = t.phase
  obuf : ∀ j, j < t.cfg.obufSize → v.byteAt (obufBase + j) = t.byteAt (obufBase + j)

/-- If the first outcome is a next state, the second is one that shows the same. -/
def Follows (o o' : Host.Outcome State Fault Refusal) : Prop := ∀ t, o = .next t → ∃ v, o' = .next v ∧ ShowsSame t v

theorem follows_next {t v : State} (h : ShowsSame t v) : Follows (.next t) (.next v) := by
  rintro _ ⟨⟩
  exact ⟨v, rfl, h⟩

section
variable {s u : State} (h : FillsIn s u)
include h

theorem FillsIn.cfg : u.cfg = s.cfg := (congrArg State.cfg h.others).trans rfl

theorem FillsIn.inLength_eq : inLength u = inLength s := (congrArg inLength h.others).trans rfl

theorem FillsIn.curIvsel : u.curIvsel = s.curIvsel := (congrArg State.curIvsel h.others).trans rfl

theorem FillsIn.ivDraw : u.ivDraw = s.ivDraw := (congrArg State.ivDraw h.others).trans rfl

theorem FillsIn.takeDraw : FillsIn (s.setIvDraw none) (u.setIvDraw none) where
  others := congrArg (State.setIvDraw · none) h.others
  written := h.written
  outside := h.outside
  legal := h.legal

/-- KEYBUF and IVBUF lie below IBUF (R60). -/
theorem FillsIn.bufferBytes_eq {a n : Nat} (ha : a + n ≤ ibufBase) : bufferBytes u a n = bufferBytes s a n := by
  refine List.map_congr_left fun j hj => ?_
  have hj := List.mem_range.mp hj
  rw [h.outside (a + j) (by omega)]

theorem FillsIn.keyBuf_eq : keyBuf u = keyBuf s := h.bufferBytes_eq (by decide)

theorem FillsIn.ivBuf_eq : ivBuf u = ivBuf s := h.bufferBytes_eq (by decide)

/-- OBUF lies above IBUF (R60, R3). -/
theorem FillsIn.obuf_eq (j : Nat) : u.byteAt (obufBase + j) = s.byteAt (obufBase + j) := by
  have hlegal := h.legal
  simp only [Params.legal, Bool.and_eq_true, decide_eq_true_eq] at hlegal
  refine h.outside _ ?_
  unfold ibufBase obufBase
  omega

theorem FillsIn.showsSame : ShowsSame s u where
  outLen := (congrArg State.outLen h.others).trans rfl
  status := (congrArg State.status h.others).trans rfl
  phase := (congrArg State.phase h.others).trans rfl
  obuf j _ := h.obuf_eq j

theorem FillsIn.finishOk (out : Bytes) : ShowsSame (finishOk s out) (finishOk u out) where
  outLen := rfl
  status := congrArg statusOk h.showsSame.status
  phase := rfl
  obuf j _ := by
    have hbefore := h.obuf_eq j
    rw [byteAt_def, byteAt_def] at hbefore ⊢
    rw [finishOk_mem, finishOk_mem, Memory.read_writeBytes, Memory.read_writeBytes, hbefore]

theorem FillsIn.finishErr (e : ErrorName) : ShowsSame (finishErr s e) (finishErr u e) where
  outLen := rfl
  status := congrArg (statusError · e) h.showsSame.status
  phase := rfl
  obuf j _ := by
    have hbefore := h.obuf_eq j
    rw [byteAt_def, byteAt_def] at hbefore ⊢
    rw [finishErr_mem, finishErr_mem, Memory.read_clear, Memory.read_clear, h.cfg, hbefore]

theorem FillsIn.finish (r : Result) : ShowsSame (finish s r) (finish u r) := by
  unfold Machine.finish
  rw [h.cfg]
  split
  · exact h.finishOk _
  · exact h.finishErr _

/-! ### The frames -/

/-- The two inputs agree on what the command reads of the first. -/
theorem FillsIn.agreesOnReads {reads : Bytes → Nat → Bool} (hread : ¬ReadsUnwritten s reads) :
    AgreesOnReads reads (filledInput s) (filledInput u) where
  length := by rw [filledInput_length, filledInput_length, h.inLength_eq]
  bytes j hj hr := by
    rw [filledInput_length] at hj
    have hget : ∀ w : State, inLength w = inLength s → (filledInput w).getD j 0 = (w.byteAt (ibufBase + j)).getD 0 :=
      fun w hw => by simp [filledInput, inputCells, hw, hj]
    cases hb : s.byteAt (ibufBase + j) with
    | none => exact absurd ⟨j, hj, hr, hb⟩ hread
    | some b => rw [hget u h.inLength_eq, hget s rfl, h.written _ b hb, hb]

theorem FillsIn.completeWith {reads : Bytes → Nat → Bool} {op : Bytes → Result}
    (hdet : ReadsDetermine (inLength s) reads op) : Follows (completeWith s reads op) (completeWith u reads op) := by
  rcases completeWith_answer s reads op with ⟨hread, he⟩ | ⟨-, he⟩
  · obtain ⟨hop, hless⟩ := hdet _ _ (filledInput_length s) (h.agreesOnReads hread)
    have hreadu : ¬ReadsUnwritten u reads := by
      rintro ⟨j, hj, hr, hnone⟩
      rw [h.inLength_eq] at hj
      have hr := hless j (by rwa [filledInput_length]) hr
      cases hb : s.byteAt (ibufBase + j) with
      | none => exact hread ⟨j, hj, hr, hb⟩
      | some b => rw [h.written _ b hb] at hnone; cases hnone
    rw [he, Machine.completeWith, readInput_of_not_readsUnwritten hreadu]
    simp only [hop]
    exact follows_next (h.finish _)
  · rw [he]
    exact nofun

theorem FillsIn.checkInput {o o' : Host.Outcome State Fault Refusal} (ho : Follows o o') :
    Follows (checkInput s o) (checkInput u o') := by
  have hlong : inputTooLong u = inputTooLong s := by rw [inputTooLong, h.cfg, h.inLength_eq, ← inputTooLong]
  rw [Machine.checkInput, Machine.checkInput, hlong]
  split
  · exact follows_next (h.finish _)
  · exact ho

/-- The wait, and the IV from either source. -/
theorem FillsIn.withIv {k : State → Bytes → Host.Outcome State Fault Refusal}
    (hk : ∀ (d : Option Draw) (u' : State) (iv : Bytes), FillsIn (s.setIvDraw d) u' →
      Follows (k (s.setIvDraw d) iv) (k u' iv)) :
    Follows (withIv s k) (withIv u k) := by
  rcases withIv_cases s k with ⟨hsel, hs⟩ | ⟨d, hsel, hdraw, hs⟩ | ⟨hsel, hdraw, hs⟩ <;> rw [hs]
  · rw [withIv_of_curIvsel (h.curIvsel.trans hsel), h.ivBuf_eq]
    exact hk s.ivDraw u _ h
  · rw [withIv_of_draw (h.curIvsel.trans hsel) (h.ivDraw.trans hdraw)]
    exact hk none _ _ h.takeDraw
  · rw [withIv_of_noDraw (h.curIvsel.trans hsel) (h.ivDraw.trans hdraw)]
    exact follows_next h.showsSame

/-! ### Every command -/

theorem FillsIn.commandResult_eq (i : Instr) : commandResult i u = commandResult i s := by
  have hkey := h.keyBuf_eq
  rw [h.others] at hkey ⊢
  funext iv p
  cases i <;> simp only [commandResult, hkey] <;> rfl

theorem FillsIn.commandReads_eq (i : Instr) : commandReads i u = commandReads i s := by
  rw [h.others]
  cases i <;> rfl

theorem FillsIn.needsIv_eq (i : Instr) : needsIv i u = needsIv i s := by
  rw [h.others]
  cases i <;> rfl

theorem FillsIn.runCommand (i : Instr) : Follows (runCommand i s) (runCommand i u) := by
  rw [Machine.runCommand, Machine.runCommand, h.needsIv_eq, h.commandReads_eq]
  split
  · refine h.withIv fun d u' iv h' => ?_
    have hdet := readsDetermine_command i (s.setIvDraw d) iv
    rw [commandReads_setIvDraw] at hdet
    rw [h'.commandResult_eq]
    exact h'.completeWith hdet
  · rw [h.commandResult_eq]
    exact h.completeWith (readsDetermine_command i s [])

theorem FillsIn.exec (i : Instr) : Follows (exec i s) (exec i u) := by
  by_cases hi : i = .keynorm
  · rw [hi, exec_keynorm, exec_keynorm]
    exact h.runCommand .keynorm
  · rw [exec_eq_checkInput hi, exec_eq_checkInput hi]
    exact h.checkInput (h.runCommand i)

end

/-- Settles O55: a completion carries over, as each command's result rests on the bytes it reads. -/
theorem noResultRestsOnAnUnwrittenByte : Obligations.NoResultRestsOnAnUnwrittenByte := by
  intro i s u t hexec hothers hwritten houtside hlegal
  have hfills : FillsIn s u := ⟨hothers, hwritten, houtside, hlegal⟩
  obtain ⟨v, hv, hshows⟩ := hfills.exec i t hexec
  have hcfg : t.cfg = s.cfg := by
    obtain ⟨-, -, -, -, -, hcfg, -⟩ := completionWritesOnlyItsResults i s t hexec
    exact hcfg
  exact ⟨v, hv, hshows.outLen, hshows.status, hshows.phase, fun j hj => hshows.obuf j (by rwa [hcfg])⟩

end Sys2Proof.Machine
end

section
/-! PROOFS. Safety and progress (spec/70_reset_and_hazards.md R277): no step but a non-admitted access or a read of an UNWRITTEN
byte faults, and an accepted command that need not wait completes at the controller's turn. -/

namespace Sys2Proof.Machine

/-- A command faults only on an UNWRITTEN byte below IN_LEN ≤ IBUF_SIZE. -/
theorem exec_next_of_written {s : State} (h : s.cfg.ibufSize < s.inLen.toNat ∨ inputWritten s = true) (i : Instr) :
    ∃ t, exec i s = .next t := by
  cases hexec : exec i s with
  | next t => exact ⟨t, rfl⟩
  | fault r =>
    cases hexec ▸ exec_commandAnswer i s with
    | faults hlen hread =>
      obtain ⟨j, hj, -, hnone⟩ := hread
      rcases h with hlong | hwritten
      · exact absurd hlong (of_decide_eq_false hlen)
      · have := List.all_eq_true.mp hwritten j (List.mem_range.mpr hj)
        rw [hnone] at this
        cases this
  | refused r => nomatch hexec ▸ exec_commandAnswer i s

theorem controllerTurn_next_of_written {s : State} (h : s.cfg.ibufSize < s.inLen.toNat ∨ inputWritten s = true) :
    ∃ t, controllerTurn s = .next t := by
  rcases controllerTurn_cases s with ⟨-, he⟩ | ⟨i, -, -, he⟩ | ⟨e, -, -, he⟩ <;> rw [he]
  · exact ⟨_, rfl⟩
  · exact exec_next_of_written h i
  · exact ⟨_, rfl⟩

theorem hostWrite_next_of_admitted {s : State} {addr : Addr} {n : Width} (v : Word) (h : admitted addr n = true) :
    ∃ t, hostWrite s addr n v = .next t := ⟨_, if_pos h⟩

/-- Settles O59: each event has a next state, so no fault. -/
theorem admittedAndWrittenStepsAreSafe : Obligations.AdmittedAndWrittenStepsAreSafe := by
  intro s hadm hin
  have hnext : ∃ t, step s = .next t := by
    cases hsched : s.schedule with
    | nil => rw [step_nil hsched]; exact controllerTurn_next_of_written hin
    | cons e rest =>
      rw [nextAccessAdmitted, hsched] at hadm
      rw [step_cons hsched]
      cases e with
      | hostRead addr n => exact ⟨_, hostRead_of_admitted hadm _⟩
      | hostWrite addr n v => exact hostWrite_next_of_admitted v hadm
      | offer d => exact ⟨_, rfl⟩
      | controller => exact controllerTurn_next_of_written (s := s.setSchedule rest) hin
      | reset => exact ⟨_, rfl⟩
  obtain ⟨t, ht⟩ := hnext
  refine ⟨fun r hr => ?_, t, ht⟩
  rw [ht] at hr
  cases hr

/-! ### Completion of an accepted command -/

/-- A command is in flight that reads no UNWRITTEN byte and need not wait for a draw. -/
structure ReadyToComplete (s : State) : Prop where
  busy : s.phase = .busy
  written : inputWritten s = true ∨ s.cfg.ibufSize < s.inLen.toNat ∨ (∃ e, decode s.cmd = .error e)
    ∨ decode s.cmd = .ok .keynorm
  noWait : s.curIvsel = true ∨ s.ivDraw ≠ none ∨ (decode s.cmd ≠ .ok .cfbEnc ∧ decode s.cmd ≠ .ok .ctrEnc)
    ∨ s.cfg.ibufSize < s.inLen.toNat
    ∨ (decode s.cmd = .ok .ctrEnc ∧ (s.inLen = 0 ∨ ¬(s.keyLen = 16 ∨ s.keyLen = 24 ∨ s.keyLen = 32)))

/-- A host read leaves all that this speaks of (R66). -/
theorem ReadyToComplete.afterRead {s : State} (h : ReadyToComplete s) (rest : List Event) (vs : List Word) (k : Nat) :
    ReadyToComplete (((s.setSchedule rest).setHostReads vs).setFresh k) := { h with }

theorem ReadyToComplete.not_waits {s : State} (h : ReadyToComplete s) {i : Instr} (hdec : decode s.cmd = .ok i)
    (hlen : inputTooLong s = false) (hiv : needsIv i s = true) (hsel : s.curIvsel = false) : s.ivDraw ≠ none := by
  rcases h.noWait with hsel' | hdraw | ⟨hcfb, hctr⟩ | hlong | ⟨hctr, hcheck⟩
  · rw [hsel] at hsel'; cases hsel'
  · exact hdraw
  · rcases needsIv_command hiv with rfl | rfl
    · exact absurd hdec hcfb
    · exact absurd hdec hctr
  · exact absurd hlong (of_decide_eq_false hlen)
  · obtain rfl : i = .ctrEnc := Except.ok.inj (hdec.symm.trans hctr)
    obtain ⟨hkey, hne⟩ := ctrEncReadsIv_iff.mp hiv
    rcases hcheck with hempty | hinvalid
    · exact absurd (congrArg BitVec.toNat hempty) hne
    · exact absurd (isKeyLength_keyLength_iff.mp hkey) hinvalid

theorem ReadyToComplete.not_readsUnwritten {s : State} (h : ReadyToComplete s) {i : Instr} (hdec : decode s.cmd = .ok i)
    (hlen : inputTooLong s = false) : ¬ReadsUnwritten s (commandReads i s) := by
  rintro ⟨j, hj, hread, hnone⟩
  rcases h.written with hwritten | hlong | ⟨e, he⟩ | hkeynorm
  · have := List.all_eq_true.mp hwritten j (List.mem_range.mpr hj)
    rw [hnone] at this
    cases this
  · exact absurd hlong (of_decide_eq_false hlen)
  · rw [hdec] at he; cases he
  · obtain rfl : i = .keynorm := Except.ok.inj (hdec.symm.trans hkeynorm)
    cases hread

/-- R102: the controller's turn finishes such a command. -/
theorem ReadyToComplete.controllerTurn_finishes {s : State} (h : ReadyToComplete s) :
    ∃ d r, controllerTurn s = .next (finish (s.setIvDraw d) r) := by
  rcases controllerTurn_cases s with ⟨hidle, -⟩ | ⟨i, -, hdec, he⟩ | ⟨e, -, -, he⟩
  · rw [h.busy] at hidle; cases hidle
  · rw [he]
    cases hexec : exec i s with
    | next t =>
      cases hexec ▸ exec_commandAnswer i s with
      | waits hlen hiv hsel hdraw => exact absurd hdraw (h.not_waits hdec hlen hiv hsel)
      | tooLong => exact ⟨s.ivDraw, _, rfl⟩
      | finishes iv d => exact ⟨d, _, rfl⟩
    | fault r =>
      cases hexec ▸ exec_commandAnswer i s with
      | faults hlen hread => exact absurd hread (h.not_readsUnwritten hdec hlen)
    | refused r => nomatch hexec ▸ exec_commandAnswer i s
  · exact ⟨s.ivDraw, _, he⟩

@[simp] theorem statusBusy_finish (s : State) (r : Result) : statusBusy (finish s r).status = false := by
  rcases finish_cases s r with ⟨_, -, -, hfin⟩ | ⟨_, -, -, hfin⟩ | ⟨_, -, hfin⟩ <;> simp [hfin]

/-- Settles O60: each scheduled read leaves the command ready, and with none left the controller's turn finishes it. -/
theorem acceptedCommandCompletes : Obligations.AcceptedCommandCompletes := by
  intro s reads hbusy hwritten hnoWait hadm hsched
  have hready : ReadyToComplete s := ⟨hbusy, hwritten, hnoWait⟩
  clear hbusy hwritten hnoWait
  induction reads generalizing s with
  | nil =>
    obtain ⟨d, r, hturn⟩ := hready.controllerTurn_finishes
    exact ⟨_, run_succ ((step_nil hsched).trans hturn) 0, finish_phase _ r, statusDone_finish _ r, statusBusy_finish _ r⟩
  | cons access reads ih =>
    obtain ⟨hfirst, hrest⟩ := List.forall_mem_cons.mp hadm
    rw [List.length_cons, run_succ (step_hostRead hsched hfirst)]
    exact ih _ hrest rfl (hready.afterRead _ _ _)

/-! ### The shim -/

/-- Settles O29: with TYPED = 0 the errors that collapse are the four of R106. -/
theorem shimCollapsesOnlyEcbErrors : Obligations.ShimCollapsesOnlyEcbErrors := by
  refine ⟨fun out typed => collapse_ok typed out, fun e => collapse_typed _, fun e => ?_, fun e hne => ?_⟩
  · cases e <;> decide
  · cases hcol : e.collapses with
    | true => exact absurd (collapse_legacy_of_collapses hcol) hne
    | false => rw [collapse, hcol]; rfl

end Sys2Proof.Machine
end
